-- ==== Sys2Proof/Word.lean ====
section
/-!
DEFINITION. The word types of the CHIP-8 core (spec/00_scope.md R5, R7): every value of the machine is an unsigned
bit field, and no instruction reads one as signed.
-/

namespace Sys2Proof

/-- One memory byte, one V register, one timer (R5: `TIMER_WIDTH` and the V registers are 8 bits). -/
abbrev Byte := BitVec 8

/-- A 16-bit value: the opcode, `pc`, `I` and a stack entry (R23, R24, R26, R70). -/
abbrev Word := BitVec 16

/-- The number of a V register, V0..VF (R20): the nibble an X or Y field holds, so always in range (R72). -/
abbrev RegIdx := Fin 16

/-- The number of a key, 0..F (R34). -/
abbrev KeyIdx := Fin 16

/-- VF, the register the flag-setting instructions write (R21). -/
abbrev VF : RegIdx := 15

/-- V0, the register BNNN reads implicitly (R128). -/
abbrev V0 : RegIdx := 0

end Sys2Proof
end

