-- ==== Sys2Proof/Config.lean ====
section
/-!
DEFINITION. What an implementation of the core fixes: the constants of spec/00_scope.md R5, the two parameters the spec
leaves OPEN (R6: `FONT` and `P_VF_ORDER`) as one record of plain data, and the free value of the model (the random byte).
The DEFAULTS of the two parameters stand in Machine/Defaults.lean.
-/

namespace Sys2Proof.Config

/-- `MEM_SIZE`: 4096 bytes, addresses 0x000..0xFFF (R5, R50). -/
abbrev memSize : Nat := 0x1000

/-- The highest valid address (R52). -/
abbrev lastAddr : Nat := 0xFFF

/-- The highest `pc` from which a step can fetch its two bytes (R91: "pc > size-2" fails). -/
abbrev lastFetch : Nat := 0xFFE

/-- `PROGRAM_BASE` (R5): where Load copies a program and where execution starts. -/
abbrev programBase : Nat := 0x200

/-- `MAX_PROGRAM` (R5): 4096 - 512 bytes. -/
abbrev maxProgram : Nat := 3584

/-- `FONT_BASE` (R5). -/
abbrev fontBase : Nat := 0x050

/-- `FONT_SIZE` (R5): 16 glyphs of 5 bytes. -/
abbrev fontSize : Nat := 80

/-- `STACK_DEPTH` (R5). -/
abbrev stackDepth : Nat := 16

/-- `FB_W` (R5). -/
abbrev fbW : Nat := 64

/-- `FB_H` (R5). -/
abbrev fbH : Nat := 32

/-- The number of frame-buffer cells, 64 × 32 (R5, R31). -/
abbrev fbCells : Nat := 2048

/-- The values of `P_VF_ORDER` (R6, R144, decision D15): in which order 8XY5, 8XY6, 8XY7 and 8XYE write their flag and
their destination when a register field names VF. -/
inductive VfOrder where
  /-- The flag is written first and the second statement reads VF as the first left it. -/
  | asListed
  /-- All operands are read first, the destination is written, and VF is written last. -/
  | flagLast
  deriving DecidableEq, Repr

/-- The type of parameter `FONT` (R6, R36): an 80-byte table. -/
abbrev Font := Vector Byte fontSize

/-- The parameters the source does not fix (R6): "a model takes each as an argument".
DESIGN CHOICE (log entry 2): the machine carries its parameters in `State.params`; no instruction, no host operation and
no reset changes them, so a statement about every state holds for every value of each parameter. -/
structure Params where
  vfOrder : VfOrder
  font    : Font
  deriving DecidableEq, Repr

/-- The draws of CXNN (R37, R154, decision D23): the n-th draw is `rand n`, and NOTHING is known of it (log entry 1).
The constant is opaque: no proof can learn a value of it or a relation between two draws. -/
opaque rand : Nat → Byte

end Sys2Proof.Config
end

