-- ==== Sys2Proof/Machine/Defaults.lean ====
section
/-!
DEFINITION. The values the machine starts from where they are more than zero: the defaults of the two parameters
(spec/00_scope.md R6) and the reset values of `pc` and `draw` (spec/70_reset_and_hazards.md R240).
-/

namespace Sys2Proof.Machine

/-- The conventional CHIP-8 font, one row per glyph, digits 0..F (R36; general knowledge, not in the source: log entry 3). -/
def conventionalFontBytes : List Byte :=
  [0xF0, 0x90, 0x90, 0x90, 0xF0] ++ [0x20, 0x60, 0x20, 0x20, 0x70] ++
  [0xF0, 0x10, 0xF0, 0x80, 0xF0] ++ [0xF0, 0x10, 0xF0, 0x10, 0xF0] ++
  [0x90, 0x90, 0xF0, 0x10, 0x10] ++ [0xF0, 0x80, 0xF0, 0x10, 0xF0] ++
  [0xF0, 0x80, 0xF0, 0x90, 0xF0] ++ [0xF0, 0x10, 0x20, 0x40, 0x40] ++
  [0xF0, 0x90, 0xF0, 0x90, 0xF0] ++ [0xF0, 0x90, 0xF0, 0x10, 0xF0] ++
  [0xF0, 0x90, 0xF0, 0x90, 0x90] ++ [0xE0, 0x90, 0xE0, 0x90, 0xE0] ++
  [0xF0, 0x80, 0x80, 0x80, 0xF0] ++ [0xE0, 0x90, 0x90, 0x90, 0xE0] ++
  [0xF0, 0x80, 0xF0, 0x80, 0xF0] ++ [0xF0, 0x80, 0xF0, 0x80, 0x80]

/-- The default of parameter `FONT` (R6, R36, decision D30). -/
def conventionalFont : Config.Font := ⟨conventionalFontBytes.toArray, by decide⟩

/-- The default of parameter `P_VF_ORDER` (R6, R144, decision D15). -/
def defaultVfOrder : Config.VfOrder := .asListed

/-- The parameters at the defaults the spec chooses (R6). -/
def defaultParams : Config.Params := { vfOrder := defaultVfOrder, font := conventionalFont }

/-- `pc` after reset (R24, R240). -/
def resetPc : Word := 0x200#16

/-- The draw flag after reset (R35, R240, decision D22). -/
def resetDraw : Bool := true

end Sys2Proof.Machine
end

