-- ==== Sys2Proof/Machine/Memory.lean ====
section
/-!
DEFINITION. The memory of spec/20_memory.md: 4096 bytes, addresses 0x000..0xFFF, held as the list of the bytes that
differ from the reset contents. The reset contents are the spec's own (R50, R55, R240): every byte 0, then the font at
0x050..0x09F, so reading a byte nothing has written is never open.
-/

namespace Sys2Proof.Machine

/-- The bytes that differ from the reset contents, by rising address. -/
abbrev Memory := List Host.Cell

namespace Memory

/-- The reset contents: what an unlisted address reads as (R50, R55). -/
def base (font : Config.Font) (a : Nat) : Byte :=
  if h : Config.fontBase ≤ a ∧ a - Config.fontBase < Config.fontSize then font[a - Config.fontBase]'h.2 else 0

/-- The byte listed for an address, if there is one. -/
def lookup : Memory → Nat → Option Byte
  | [], _ => none
  | (k, b) :: rest, a => if a = k then some b else lookup rest a

/-- `MemRead(a, 1)` (R51). -/
def read (font : Config.Font) (m : Memory) (a : Nat) : Byte := (lookup m a).getD (base font a)

/-- List `v` for address `a`, in address order. -/
def put : Memory → Nat → Byte → Memory
  | [], a, v => [(a, v)]
  | (k, b) :: rest, a, v =>
    if a < k then (a, v) :: (k, b) :: rest
    else if a = k then (a, v) :: rest
    else (k, b) :: put rest a v

/-- List nothing for address `a`. -/
def erase : Memory → Nat → Memory
  | [], _ => []
  | (k, b) :: rest, a => if a = k then erase rest a else (k, b) :: erase rest a

/-- `MemWrite(a, 1, v)` (R51). The canonical form is kept: writing what an unlisted address reads as removes the entry.
An address above 0xFFF does not exist (R52): every instruction checks before it writes, and nothing is listed for one. -/
def write (font : Config.Font) (m : Memory) (a : Nat) (v : Byte) : Memory :=
  if a < Config.memSize then
    if v = base font a then erase m a else put m a v
  else m

/-- The canonical form: addresses rise strictly, lie in the address space, and no entry says what an unlisted address
reads as. Two memories in this form that read the same are the same list. -/
abbrev wf (font : Config.Font) (m : Memory) : Prop :=
  m.Pairwise (fun c d => c.1 < d.1) ∧ ∀ c ∈ m, c.1 < Config.memSize ∧ c.2 ≠ base font c.1

end Memory

end Sys2Proof.Machine
end

