-- ==== Sys2Proof/Syntax.lean ====
section
/-!
DEFINITION. The 34 instructions of the CHIP-8 core: one constructor per row of spec/opcode_table.json (R74), with the
operands as the instruction rules use them. Register fields are register numbers (R72: "a register field always names a
register"); `NN` is a byte; `NNN` is the 16-bit value zext_16(NNN) (R72), and the sprite height `N` is a count, so those
two have a range that WellFormed.lean checks.
-/

namespace Sys2Proof

inductive Instr where
  /-- 00E0 CLS (R110). -/
  | cls
  /-- 00EE RET (R121). -/
  | ret
  /-- 1NNN JP NNN (R122). -/
  | jp (nnn : Word)
  /-- 2NNN CALL NNN (R123). -/
  | call (nnn : Word)
  /-- 3XNN SE Vx, NN (R124). -/
  | seImm (x : RegIdx) (nn : Byte)
  /-- 4XNN SNE Vx, NN (R125). -/
  | sneImm (x : RegIdx) (nn : Byte)
  /-- 5XY0 SE Vx, Vy (R126). -/
  | seReg (x y : RegIdx)
  /-- 6XNN LD Vx, NN (R141). -/
  | ldImm (x : RegIdx) (nn : Byte)
  /-- 7XNN ADD Vx, NN (R142). -/
  | addImm (x : RegIdx) (nn : Byte)
  /-- 8XY0 LD Vx, Vy (R143). -/
  | ldReg (x y : RegIdx)
  /-- 8XY1 OR Vx, Vy (R145). -/
  | orReg (x y : RegIdx)
  /-- 8XY2 AND Vx, Vy (R146). -/
  | andReg (x y : RegIdx)
  /-- 8XY3 XOR Vx, Vy (R147). -/
  | xorReg (x y : RegIdx)
  /-- 8XY4 ADD Vx, Vy (R149). -/
  | addReg (x y : RegIdx)
  /-- 8XY5 SUB Vx, Vy (R150). -/
  | sub (x y : RegIdx)
  /-- 8XY6 SHR Vx, Vy (R151); `y` is decoded and ignored (R77). -/
  | shr (x y : RegIdx)
  /-- 8XY7 SUBN Vx, Vy (R152). -/
  | subn (x y : RegIdx)
  /-- 8XYE SHL Vx, Vy (R153); `y` is decoded and ignored (R77). -/
  | shl (x y : RegIdx)
  /-- 9XY0 SNE Vx, Vy (R127). -/
  | sneReg (x y : RegIdx)
  /-- ANNN LD I, NNN (R170). -/
  | ldI (nnn : Word)
  /-- BNNN JP V0, NNN (R128). -/
  | jpV0 (nnn : Word)
  /-- CXNN RND Vx, NN (R154). -/
  | rnd (x : RegIdx) (nn : Byte)
  /-- DXYN DRW Vx, Vy, N (R112). -/
  | drw (x y : RegIdx) (n : Nat)
  /-- EX9E SKP Vx (R190). -/
  | skp (x : RegIdx)
  /-- EXA1 SKNP Vx (R191). -/
  | sknp (x : RegIdx)
  /-- FX07 LD Vx, DT (R192). -/
  | ldVxDt (x : RegIdx)
  /-- FX0A LD Vx, K (R193). -/
  | ldVxKey (x : RegIdx)
  /-- FX15 LD DT, Vx (R194). -/
  | ldDtVx (x : RegIdx)
  /-- FX18 LD ST, Vx (R195). -/
  | ldStVx (x : RegIdx)
  /-- FX1E ADD I, Vx (R171). -/
  | addI (x : RegIdx)
  /-- FX29 LD F, Vx (R172). -/
  | ldFont (x : RegIdx)
  /-- FX33 LD B, Vx (R173). -/
  | ldBcd (x : RegIdx)
  /-- FX55 LD [I], Vx (R174). -/
  | storeRegs (x : RegIdx)
  /-- FX65 LD Vx, [I] (R175). -/
  | loadRegs (x : RegIdx)
  deriving DecidableEq, Repr

end Sys2Proof
end

