-- ==== Sys2Proof/Machine/State.lean ====
section
/-!
DEFINITION. The state of the core, every piece spec/10_state.md lists, as plain data; the faults of
spec/60_exceptions.md R210; the (unused) refusal; and the state after reset (spec/70_reset_and_hazards.md R240).
-/

namespace Sys2Proof.Machine

/-- The state of the core: the table of spec/10_state.md, and two fields that are the MODEL's own (`rndCount`, `params`). -/
structure State where
  /-- `V[0..15]` (R20). -/
  v        : Vector Byte 16
  /-- The index register `I`; all 16 bits are kept (R23). -/
  i        : Word
  /-- The program counter (R24). -/
  pc       : Word
  /-- `stack[0..15]`: addresses of CALL instructions (R26). -/
  stack    : Vector Word 16
  /-- The number of stack entries in use, 0..16 (R27). -/
  sp       : Fin 17
  /-- The delay timer (R28). -/
  dt       : Byte
  /-- The sound timer (R29). -/
  st       : Byte
  /-- The memory (R50). -/
  mem      : Memory
  /-- The frame buffer: 2048 one-bit cells, cell k = bit k, row-major (R31, R32). -/
  fb       : BitVec Config.fbCells
  /-- The key state, `true` for pressed (R34). -/
  key      : Vector Bool 16
  /-- The draw flag (R35). -/
  draw     : Bool
  /-- MODEL's own (log entry 1): how many draws CXNN has taken; the next one is `Config.rand rndCount`. -/
  rndCount : Nat
  /-- MODEL's own (log entry 2): the parameters `FONT` and `P_VF_ORDER` (R6), fixed for the machine. -/
  params   : Config.Params
  deriving DecidableEq, Repr

/-- The failures of a step or a load (R210). Each is the spec's own outcome for its case and changes no state (R212).
SAFE, all of them: the spec gives the same outcome, and where it is the spec's choice (log entry 6) the run stops. -/
inductive Fault where
  /-- Kind 1: raised by every step with `pc > 0xFFE` (R91). Safe: the source's own failure. -/
  | programCounterOutOfBounds (pc : Word)
  /-- Kind 2: raised by decode (R75). Safe: the source's own failure. -/
  | unknownOpcode (pc opcode : Word)
  /-- Kind 3: raised by decode of 5XYn and 9XYn with n not 0 (R75). Safe: the source's own failure. -/
  | malformedOperand (pc opcode : Word)
  /-- Kind 4: raised by 2NNN with `sp = 16` (R123). Safe: the source's recommendation. -/
  | stackOverflow (pc opcode : Word)
  /-- Kind 5: raised by 00EE with `sp = 0` (R121). Safe: the source's recommendation. -/
  | stackUnderflow (pc opcode : Word)
  /-- Kind 6: raised by DXYN, FX33, FX55 and FX65 (R52); `value` is the highest address the instruction would touch
  (R211). Safe: the spec's choice D8. -/
  | memoryOutOfBounds (pc opcode : Word) (value : Nat)
  /-- Kind 7: raised by EX9E and EXA1 with V[X] > 15 (R190, R191); `value` is V[X] (R211). Safe: the spec's choice D9. -/
  | keyIndexOutOfBounds (pc opcode : Word) (value : Byte)
  /-- Kind 8: raised by the host operation Load, never by a step (R244). Safe: the source's own failure. -/
  | loadTooLarge (length : Nat)
  deriving DecidableEq, Repr

/-- Refusals: every instruction has its meaning, so no step gives one. -/
inductive Refusal where
  /-- Raised by exec for an instruction that has no meaning yet (none is left). Safe: the run stops. -/
  | notModelled (mnemonic : String)
  deriving DecidableEq, Repr

/-- What one step, or one host operation, answers. -/
abbrev Result := Host.Outcome State Fault Refusal

/-- The state `reset()` leaves (R240), for given parameters and a given number of draws taken before (R37: reset does
not define the random source). -/
def State.resetWith (params : Config.Params) (rndCount : Nat) : State where
  v        := Vector.replicate 16 0
  i        := 0
  pc       := resetPc
  stack    := Vector.replicate 16 0
  sp       := 0
  dt       := 0
  st       := 0
  mem      := []
  fb       := 0
  key      := Vector.replicate 16 false
  draw     := resetDraw
  rndCount := rndCount
  params   := params

/-- The machine right after reset, and at construction (R240, R241, decision D1), with the parameters at the defaults
of R6. -/
def State.reset : State := State.resetWith defaultParams 0

end Sys2Proof.Machine
end

