-- ==== Sys2Proof/Machine/Operands.lean ====
section
/-!
DEFINITION. The operand forms of the instructions: registers (spec/10_state.md R20), keys (R34), the address `I + k`
(spec/44_index_memory.md), the glyph address of FX29 (R172), the target of BNNN (R128), the sprite position of DXYN
(R111, R112), and the lists an instruction counts through.
-/

namespace Sys2Proof.Machine

/-- Read register Vr (R8, R20). -/
def State.reg (s : State) (r : RegIdx) : Byte := s.v[r.val]

/-- Write register Vr (R8, R20): no register is hard-wired. -/
def State.setReg (s : State) (r : RegIdx) (b : Byte) : State := { s with v := s.v.set r.val b }

/-- The registers in the order 0..15. -/
def allRegs : List RegIdx := [0, 1, 2, 3, 4, 5, 6, 7, 8, 9, 10, 11, 12, 13, 14, 15]

/-- The registers V0..VX, X included (R174, R175: "for k in 0..X"). -/
def regsUpTo (x : RegIdx) : List RegIdx := allRegs.filter (fun r => decide (r ≤ x))

/-- Whether key k is pressed (R34). -/
def State.pressed (s : State) (k : KeyIdx) : Bool := s.key[k.val]

/-- The keys in the order 0..15. -/
def allKeys : List KeyIdx := [0, 1, 2, 3, 4, 5, 6, 7, 8, 9, 10, 11, 12, 13, 14, 15]

/-- The least k with key[k] = 1, if any key is pressed (R193, decision D10). -/
def State.leastPressed (s : State) : Option KeyIdx := allKeys.find? (fun k => s.pressed k)

/-- The only data address form: `I + k`, computed exactly, with no wrap (R52). -/
def State.indexAddr (s : State) (k : Nat) : Nat := s.i.toNat + k

/-- `0x050 + V[X] * 5`; V[X] is used whole (R172). -/
def glyphAddr (vx : Byte) : Word := BitVec.ofNat 16 (Config.fontBase + vx.toNat * 5)

/-- `V[0] + NNN`, not reduced modulo 4096 (R128). -/
def State.v0Target (s : State) (nnn : Word) : Word := (s.reg V0).setWidth 16 + nnn

/-- The column a sprite starts at, `V[X] mod 64` (R112). -/
def State.spriteX (s : State) (x : RegIdx) : Nat := (s.reg x).toNat % Config.fbW

/-- The row a sprite starts at, `V[Y] mod 32` (R112). -/
def State.spriteY (s : State) (y : RegIdx) : Nat := (s.reg y).toNat % Config.fbH

/-- Bit `c` of a sprite byte counted from the left: column offset 0 is bit 7 (R111, decision D13). -/
def spriteBit (b : Byte) (c : Nat) : Bool := b.getLsbD (7 - c)

/-- The index of the frame-buffer cell of column x and row y (R32). -/
def cellIndex (x y : Nat) : Nat := y * Config.fbW + x

/-- The hundreds, tens and ones digits of a byte (R173). -/
def decimalDigits (b : Byte) : List Byte :=
  [BitVec.ofNat 8 (b.toNat / 100), BitVec.ofNat 8 (b.toNat / 10 % 10), BitVec.ofNat 8 (b.toNat % 10)]

end Sys2Proof.Machine
end

