-- ==== Sys2Proof/Machine/Flags.lean ====
section
/-!
DEFINITION. The flag computations of spec/43_alu.md (R148) and the order in which an instruction writes its flag and its
destination (R144, parameter `P_VF_ORDER`).
-/

namespace Sys2Proof.Machine

/-- `bool(c)` as a register value: 1 or 0 (R8). -/
def flagByte (c : Bool) : Byte := if c then 1 else 0

/-- The carry of 8XY4: 1 iff the unwrapped sum exceeds 255 (R148, R149). -/
def carryFlag (a b : Byte) : Byte := flagByte (decide (a.toNat + b.toNat > 255))

/-- The flag of 8XY5 and 8XY7: 1 iff a > b; equality gives 0 (R148, R150, R152). -/
def greaterFlag (a b : Byte) : Byte := flagByte (decide (a.toNat > b.toNat))

/-- The bit 8XY6 shifts out: bit 0 (R151). -/
def lowBitFlag (a : Byte) : Byte := a &&& 1

/-- The bit 8XYE shifts out: bit 7 (R153). -/
def highBitFlag (a : Byte) : Byte := a >>> 7

/-- Write a flag to VF and a result to the destination, in the order `P_VF_ORDER` fixes (R144). The result is a function
of the state it reads its operands in: under `asListed` that is the state after the flag write, under `flagLast` the
state at the start. -/
def State.writeFlagAndDest (s : State) (flag : Byte) (dest : RegIdx) (result : State → Byte) : State :=
  match s.params.vfOrder with
  | .asListed => (s.setReg VF flag).setReg dest (result (s.setReg VF flag))
  | .flagLast => (s.setReg dest (result s)).setReg VF flag

end Sys2Proof.Machine
end

