-- ==== Sys2Proof/WellFormed.lean ====
section
/-!
DEFINITION. What makes an instruction one the encoding can hold (spec/30_encoding.md R71, R72), and what makes a byte
sequence one Load accepts (spec/70_reset_and_hazards.md R243, R244). Two operands have a type wider than their field:
`NNN` is used as a 16-bit value and must be at most 0xFFF, and the sprite height `N` is a count and must be at most 15.
-/

namespace Sys2Proof

/-- `NNN` is 12 bits wide (R72: zext_16(NNN), 0..0xFFF). -/
def addrFits (nnn : Word) : Bool := decide (nnn.toNat ≤ 0xFFF)

/-- `N` is 4 bits wide (R72: 0..15). -/
def heightFits (n : Nat) : Bool := decide (n ≤ 15)

/-- Whether every operand lies in the range its field can hold. -/
def Instr.wellFormed : Instr → Bool
  | .jp nnn => addrFits nnn
  | .call nnn => addrFits nnn
  | .ldI nnn => addrFits nnn
  | .jpV0 nnn => addrFits nnn
  | .drw _ _ n => heightFits n
  | .cls => true
  | .ret => true
  | .seImm _ _ => true
  | .sneImm _ _ => true
  | .seReg _ _ => true
  | .ldImm _ _ => true
  | .addImm _ _ => true
  | .ldReg _ _ => true
  | .orReg _ _ => true
  | .andReg _ _ => true
  | .xorReg _ _ => true
  | .addReg _ _ => true
  | .sub _ _ => true
  | .shr _ _ => true
  | .subn _ _ => true
  | .shl _ _ => true
  | .sneReg _ _ => true
  | .rnd _ _ => true
  | .skp _ => true
  | .sknp _ => true
  | .ldVxDt _ => true
  | .ldVxKey _ => true
  | .ldDtVx _ => true
  | .ldStVx _ => true
  | .addI _ => true
  | .ldFont _ => true
  | .ldBcd _ => true
  | .storeRegs _ => true
  | .loadRegs _ => true

/-- Whether Load accepts a program: "length ≤ 3584; failure if exceeded" (R244). -/
def programFits (bytes : List Byte) : Bool := decide (bytes.length ≤ Config.maxProgram)

end Sys2Proof
end

