-- ==== Sys2Proof/Decode.lean ====
section
/-!
DEFINITION. The decoder of spec/30_encoding.md R70 to R77, total on every word and rejecting by name, and the encoder
written from the same patterns (R74). The opcode is big-endian in memory (spec/20_memory.md R53).
-/

namespace Sys2Proof

/-- Why an opcode is illegal (R75). -/
inductive DecodeError where
  /-- "top nibble or sub-selector does not match any defined instruction" (R75, R210 kind 2). -/
  | unknownOpcode
  /-- The required-zero low nibble of 5XY0 or 9XY0 is not zero (R75, R210 kind 3). -/
  | malformedOperand
  deriving DecidableEq, Repr

/-! ### Byte order (R53) -/

/-- "read two consecutive bytes at pc, pc+1; combine big-endian into a 16-bit opcode" (R53, R92). -/
def opcodeOfBytes (b0 b1 : Byte) : Word := b0 ++ b1

/-- The byte of an opcode that lies at the lower address. -/
def opcodeHi (w : Word) : Byte := w.extractLsb' 8 8

/-- The byte of an opcode that lies at the higher address. -/
def opcodeLo (w : Word) : Byte := w.extractLsb' 0 8

/-! ### Fields (R71, R72) -/

/-- `op`, bits 15-12. -/
def fieldOp (w : Word) : Nat := (w.extractLsb' 12 4).toNat

/-- `X`, bits 11-8. -/
def fieldX (w : Word) : RegIdx := (w.extractLsb' 8 4).toFin

/-- `Y`, bits 7-4. -/
def fieldY (w : Word) : RegIdx := (w.extractLsb' 4 4).toFin

/-- `N`, bits 3-0. -/
def fieldN (w : Word) : Nat := (w.extractLsb' 0 4).toNat

/-- `NN`, bits 7-0. -/
def fieldNN (w : Word) : Byte := w.extractLsb' 0 8

/-- zext_16 of `NNN`, bits 11-0. -/
def fieldNNN (w : Word) : Word := (w.extractLsb' 0 12).setWidth 16

/-! ### Decode (R73 to R75) -/

/-- Group 0 is matched on all 16 bits (R73, decision D16). -/
def decodeGroup0 (w : Word) : Except DecodeError Instr :=
  if w = 0x00E0#16 then .ok .cls
  else if w = 0x00EE#16 then .ok .ret
  else .error .unknownOpcode

/-- Groups 5 and 9: the low nibble must be 0 (R73, R75). -/
def decodeZeroNibble (w : Word) (i : Instr) : Except DecodeError Instr :=
  if fieldN w = 0 then .ok i else .error .malformedOperand

/-- Group 8 is selected by the low nibble (R73). -/
def decodeGroup8 (w : Word) : Except DecodeError Instr :=
  match fieldN w with
  | 0x0 => .ok (.ldReg (fieldX w) (fieldY w))
  | 0x1 => .ok (.orReg (fieldX w) (fieldY w))
  | 0x2 => .ok (.andReg (fieldX w) (fieldY w))
  | 0x3 => .ok (.xorReg (fieldX w) (fieldY w))
  | 0x4 => .ok (.addReg (fieldX w) (fieldY w))
  | 0x5 => .ok (.sub (fieldX w) (fieldY w))
  | 0x6 => .ok (.shr (fieldX w) (fieldY w))
  | 0x7 => .ok (.subn (fieldX w) (fieldY w))
  | 0xE => .ok (.shl (fieldX w) (fieldY w))
  | _ => .error .unknownOpcode

/-- Group E is selected by the low byte (R73). -/
def decodeGroupE (w : Word) : Except DecodeError Instr :=
  if fieldNN w = 0x9E#8 then .ok (.skp (fieldX w))
  else if fieldNN w = 0xA1#8 then .ok (.sknp (fieldX w))
  else .error .unknownOpcode

/-- Group F is selected by the low byte (R73). -/
def decodeGroupF (w : Word) : Except DecodeError Instr :=
  if fieldNN w = 0x07#8 then .ok (.ldVxDt (fieldX w))
  else if fieldNN w = 0x0A#8 then .ok (.ldVxKey (fieldX w))
  else if fieldNN w = 0x15#8 then .ok (.ldDtVx (fieldX w))
  else if fieldNN w = 0x18#8 then .ok (.ldStVx (fieldX w))
  else if fieldNN w = 0x1E#8 then .ok (.addI (fieldX w))
  else if fieldNN w = 0x29#8 then .ok (.ldFont (fieldX w))
  else if fieldNN w = 0x33#8 then .ok (.ldBcd (fieldX w))
  else if fieldNN w = 0x55#8 then .ok (.storeRegs (fieldX w))
  else if fieldNN w = 0x65#8 then .ok (.loadRegs (fieldX w))
  else .error .unknownOpcode

/-- "on the high nibble (bits 15–12), then where needed a secondary nibble (low nibble or low byte) selects the specific
operation" (R73). The nibble is below 16, so the last arm is group F. -/
def decode (w : Word) : Except DecodeError Instr :=
  match fieldOp w with
  | 0x0 => decodeGroup0 w
  | 0x1 => .ok (.jp (fieldNNN w))
  | 0x2 => .ok (.call (fieldNNN w))
  | 0x3 => .ok (.seImm (fieldX w) (fieldNN w))
  | 0x4 => .ok (.sneImm (fieldX w) (fieldNN w))
  | 0x5 => decodeZeroNibble w (.seReg (fieldX w) (fieldY w))
  | 0x6 => .ok (.ldImm (fieldX w) (fieldNN w))
  | 0x7 => .ok (.addImm (fieldX w) (fieldNN w))
  | 0x8 => decodeGroup8 w
  | 0x9 => decodeZeroNibble w (.sneReg (fieldX w) (fieldY w))
  | 0xA => .ok (.ldI (fieldNNN w))
  | 0xB => .ok (.jpV0 (fieldNNN w))
  | 0xC => .ok (.rnd (fieldX w) (fieldNN w))
  | 0xD => .ok (.drw (fieldX w) (fieldY w) (fieldN w))
  | 0xE => decodeGroupE w
  | _ => decodeGroupF w

/-- The decoder on the two bytes of an instruction as they lie in memory, the one at `pc` first (R53, R70). -/
def decodeBytes (b0 b1 : Byte) : Except DecodeError Instr := decode (opcodeOfBytes b0 b1)

/-- The instruction the decoder reads from an opcode-table word `w` of `nbits` bits, its bits numbered as the table
numbers them (bit 0 the least significant bit of the 16-bit opcode), laid out in memory order first. -/
def decodeTableWord (nbits w : Nat) : Option Instr :=
  let opcode : Word := BitVec.ofNat 16 (w % 2 ^ nbits)
  match decodeBytes (opcodeHi opcode) (opcodeLo opcode) with
  | .ok i => some i
  | .error _ => none

/-! ### Encode (R74) -/

/-- The nibble of a register number. -/
def regNibble (r : RegIdx) : BitVec 4 := BitVec.ofFin r

/-- Format `oNNN` (R71). -/
def formNNN (op : BitVec 4) (nnn : Word) : Word := op ++ nnn.setWidth 12

/-- Format `oXNN` (R71). -/
def formXNN (op : BitVec 4) (x : RegIdx) (nn : Byte) : Word := op ++ regNibble x ++ nn

/-- Formats `oXYo` and `oXYN` (R71). -/
def formXYN (op : BitVec 4) (x y : RegIdx) (n : BitVec 4) : Word := op ++ regNibble x ++ regNibble y ++ n

/-- The opcode of an instruction (R74). -/
def encode : Instr → Word
  | .cls => 0x00E0#16
  | .ret => 0x00EE#16
  | .jp nnn => formNNN 0x1#4 nnn
  | .call nnn => formNNN 0x2#4 nnn
  | .seImm x nn => formXNN 0x3#4 x nn
  | .sneImm x nn => formXNN 0x4#4 x nn
  | .seReg x y => formXYN 0x5#4 x y 0x0#4
  | .ldImm x nn => formXNN 0x6#4 x nn
  | .addImm x nn => formXNN 0x7#4 x nn
  | .ldReg x y => formXYN 0x8#4 x y 0x0#4
  | .orReg x y => formXYN 0x8#4 x y 0x1#4
  | .andReg x y => formXYN 0x8#4 x y 0x2#4
  | .xorReg x y => formXYN 0x8#4 x y 0x3#4
  | .addReg x y => formXYN 0x8#4 x y 0x4#4
  | .sub x y => formXYN 0x8#4 x y 0x5#4
  | .shr x y => formXYN 0x8#4 x y 0x6#4
  | .subn x y => formXYN 0x8#4 x y 0x7#4
  | .shl x y => formXYN 0x8#4 x y 0xE#4
  | .sneReg x y => formXYN 0x9#4 x y 0x0#4
  | .ldI nnn => formNNN 0xA#4 nnn
  | .jpV0 nnn => formNNN 0xB#4 nnn
  | .rnd x nn => formXNN 0xC#4 x nn
  | .drw x y n => formXYN 0xD#4 x y (BitVec.ofNat 4 n)
  | .skp x => formXNN 0xE#4 x 0x9E#8
  | .sknp x => formXNN 0xE#4 x 0xA1#8
  | .ldVxDt x => formXNN 0xF#4 x 0x07#8
  | .ldVxKey x => formXNN 0xF#4 x 0x0A#8
  | .ldDtVx x => formXNN 0xF#4 x 0x15#8
  | .ldStVx x => formXNN 0xF#4 x 0x18#8
  | .addI x => formXNN 0xF#4 x 0x1E#8
  | .ldFont x => formXNN 0xF#4 x 0x29#8
  | .ldBcd x => formXNN 0xF#4 x 0x33#8
  | .storeRegs x => formXNN 0xF#4 x 0x55#8
  | .loadRegs x => formXNN 0xF#4 x 0x65#8

end Sys2Proof
end

