-- ==== Sys2Proof/Machine/Ops.lean ====
section
/-!
DEFINITION. The shared operations of the instruction rules: memory bytes (spec/20_memory.md R51 to R56), the pc updates of
spec/40_cycle.md R96, the call stack (spec/10_state.md R26, R27), the frame buffer (spec/41_display.md R111, R112),
raising a fault (spec/60_exceptions.md R211 to R215: the only exception this hardware has; it saves nothing, changes no
mode and goes to no handler, and there is no return from it, R216), and the fetch and decode of a step (R91 to R93).
-/

namespace Sys2Proof.Machine

/-! ### Memory bytes -/

/-- `MemRead(a, 1)` (R51). -/
def State.readByte (s : State) (a : Nat) : Byte := s.mem.read s.params.font a

/-- `MemWrite(a, 1, b)` (R51). -/
def State.writeByte (s : State) (a : Nat) (b : Byte) : State := { s with mem := s.mem.write s.params.font a b }

/-- Write bytes at consecutive ascending addresses, each as a separate one-byte access (R56). -/
def State.writeBytes (s : State) (a : Nat) : List Byte → State
  | [] => s
  | b :: rest => (s.writeByte a b).writeBytes (a + 1) rest

/-- The `n` bytes at consecutive ascending addresses from `a` (R56). -/
def State.readBytes (s : State) (a : Nat) : Nat → List Byte
  | 0 => []
  | n + 1 => s.readByte a :: s.readBytes (a + 1) n

/-! ### Raising a fault (R211, R212) -/

/-- `raise`: the step ends with the fault and no state change; the outcome carries no state (R8, R212). -/
def raise (f : Fault) : Result := .fault f

/-- The check of R52, made before the first access: `last` is the highest address the instruction would touch. -/
def State.checkedAccess (s : State) (instr : Instr) (last : Nat) (s' : State) : Result :=
  if last > Config.lastAddr then raise (.memoryOutOfBounds s.pc (encode instr) last) else .next s'

/-! ### pc updates (R96) -/

/-- `pc <- pc + 2`. -/
def State.advance (s : State) : State := { s with pc := s.pc + 2 }

/-- `pc <- pc + 4` if the condition holds ("skip"), else `pc + 2` (R120). -/
def State.skipIf (s : State) (c : Bool) : State := { s with pc := s.pc + (if c then 4 else 2) }

/-- `pc <- target` ("no auto-advance", R122). -/
def State.jump (s : State) (target : Word) : State := { s with pc := target }

/-! ### The call stack (R26, R27) -/

/-- `stack[sp] <- w`, then `sp <- sp + 1`; nothing where all 16 entries are in use. -/
def State.push (s : State) (w : Word) : Option State :=
  if h : s.sp.val < 16 then
    some { s with stack := s.stack.set s.sp.val w, sp := ⟨s.sp.val + 1, by omega⟩ }
  else none

/-- `sp <- sp - 1`, then the value of `stack[sp]`, which keeps it; nothing where no entry is in use. -/
def State.pop (s : State) : Option (Word × State) :=
  if h : 0 < s.sp.val then
    some (s.stack[s.sp.val - 1]'(by omega), { s with sp := ⟨s.sp.val - 1, by omega⟩ })
  else none

/-! ### The frame buffer (R31, R32, R111, R112) -/

/-- `FB[k]`. -/
def State.cell (s : State) (k : Nat) : Bool := s.fb.getLsbD k

/-- The cell of column x and row y (R32). -/
def State.pixel (s : State) (x y : Nat) : Bool := s.cell (cellIndex x y)

/-- `FB[k] <- FB[k] ^ 1`. -/
def flipCell (fb : BitVec Config.fbCells) (k : Nat) : BitVec Config.fbCells := fb ^^^ (1#Config.fbCells <<< k)

/-- What drawing carries along: the frame buffer and `hit`. -/
abbrev Canvas := BitVec Config.fbCells × Bool

/-- One pixel of a sprite: a 1 bit flips its cell and reports a collision if the cell was 1; a 0 bit does nothing
(R112). -/
def drawPixel (canvas : Canvas) (bit : Bool) (k : Nat) : Canvas :=
  if bit then (flipCell canvas.1 k, canvas.2 || canvas.1.getLsbD k) else canvas

/-- The eight columns of one sprite row at frame-buffer row `y` (R111: every pixel coordinate wraps). -/
def drawRow (canvas : Canvas) (b : Byte) (x0 y : Nat) : Canvas :=
  [0, 1, 2, 3, 4, 5, 6, 7].foldl
    (fun cv c => drawPixel cv (spriteBit b c) (cellIndex ((x0 + c) % Config.fbW) y)) canvas

/-- The rows of a sprite, `r` being the number of the first one (R112). -/
def drawRows (x0 y0 r : Nat) : List Byte → Canvas → Canvas
  | [], canvas => canvas
  | b :: rest, canvas => drawRows x0 y0 (r + 1) rest (drawRow canvas b x0 ((y0 + r) % Config.fbH))

/-! ### Fetch and decode (R91 to R93) -/

/-- The opcode at `pc` (R92). -/
def State.opcodeAtPc (s : State) : Word :=
  opcodeOfBytes (s.readByte s.pc.toNat) (s.readByte (s.pc.toNat + 1))

/-- The fault of a decode failure (R93). -/
def decodeFault (pc opcode : Word) : DecodeError → Fault
  | .unknownOpcode => .unknownOpcode pc opcode
  | .malformedOperand => .malformedOperand pc opcode

/-- The first three stages of a step (R90): the program-counter check, fetch and decode. No state is written. -/
def State.fetchDecode (s : State) : Except Fault Instr :=
  if s.pc.toNat > Config.lastFetch then .error (.programCounterOutOfBounds s.pc)
  else
    match decodeBytes (s.readByte s.pc.toNat) (s.readByte (s.pc.toNat + 1)) with
    | .ok instr => .ok instr
    | .error e => .error (decodeFault s.pc s.opcodeAtPc e)

/-- Store a 16-bit opcode at `a` and `a + 1` as the fetch reads it (R53). -/
def State.writeOpcode (s : State) (a : Nat) (w : Word) : State :=
  (s.writeByte a (opcodeHi w)).writeByte (a + 1) (opcodeLo w)

/-! ### The fault record (R210, R211) -/

/-- The numeric code of a fault kind (R210, decision D3). -/
def Fault.code : Fault → Nat
  | .programCounterOutOfBounds _ => 1
  | .unknownOpcode _ _ => 2
  | .malformedOperand _ _ => 3
  | .stackOverflow _ _ => 4
  | .stackUnderflow _ _ => 5
  | .memoryOutOfBounds _ _ _ => 6
  | .keyIndexOutOfBounds _ _ _ => 7
  | .loadTooLarge _ => 8

/-- The `pc` of the fault record: that at the start of the step; Load is no step and has none (R211). -/
def Fault.recordPc : Fault → Option Word
  | .programCounterOutOfBounds pc => some pc
  | .unknownOpcode pc _ => some pc
  | .malformedOperand pc _ => some pc
  | .stackOverflow pc _ => some pc
  | .stackUnderflow pc _ => some pc
  | .memoryOutOfBounds pc _ _ => some pc
  | .keyIndexOutOfBounds pc _ _ => some pc
  | .loadTooLarge _ => none

/-- The `opcode` of the fault record: the fetched one, "absent for ProgramCounterOutOfBounds and LoadTooLarge" (R211). -/
def Fault.recordOpcode : Fault → Option Word
  | .programCounterOutOfBounds _ => none
  | .unknownOpcode _ w => some w
  | .malformedOperand _ w => some w
  | .stackOverflow _ w => some w
  | .stackUnderflow _ w => some w
  | .memoryOutOfBounds _ w _ => some w
  | .keyIndexOutOfBounds _ w _ => some w
  | .loadTooLarge _ => none

/-- The `value` of the fault record (R211). -/
def Fault.recordValue : Fault → Option Nat
  | .programCounterOutOfBounds _ => none
  | .unknownOpcode _ _ => none
  | .malformedOperand _ _ => none
  | .stackOverflow _ _ => none
  | .stackUnderflow _ _ => none
  | .memoryOutOfBounds _ _ a => some a
  | .keyIndexOutOfBounds _ _ b => some b.toNat
  | .loadTooLarge n => some n

end Sys2Proof.Machine
end

