-- ==== Sys2Proof/Machine/Alu.lean ====
section
/-!
DEFINITION. Register and arithmetic instructions: 6XNN, 7XNN, 8XY0 to 8XYE, CXNN (spec/43_alu.md). None can fault, and
each advances `pc` by 2.
-/

namespace Sys2Proof.Machine

/-- 6XNN (R141). -/
def execLdImm (x : RegIdx) (nn : Byte) (s : State) : Result := .next (s.setReg x nn).advance

/-- 7XNN (R142): modulo 256, no flag. -/
def execAddImm (x : RegIdx) (nn : Byte) (s : State) : Result := .next (s.setReg x (s.reg x + nn)).advance

/-- 8XY0 (R143). -/
def execLdReg (x y : RegIdx) (s : State) : Result := .next (s.setReg x (s.reg y)).advance

/-- 8XY1 (R145). -/
def execOrReg (x y : RegIdx) (s : State) : Result := .next (s.setReg x (s.reg x ||| s.reg y)).advance

/-- 8XY2 (R146). -/
def execAndReg (x y : RegIdx) (s : State) : Result := .next (s.setReg x (s.reg x &&& s.reg y)).advance

/-- 8XY3 (R147). -/
def execXorReg (x y : RegIdx) (s : State) : Result := .next (s.setReg x (s.reg x ^^^ s.reg y)).advance

/-- 8XY4 (R149): the sum is written first, then the carry, whatever `P_VF_ORDER` is (R144). -/
def execAddReg (x y : RegIdx) (s : State) : Result :=
  .next ((s.setReg x (s.reg x + s.reg y)).setReg VF (carryFlag (s.reg x) (s.reg y))).advance

/-- 8XY5 (R150). -/
def execSub (x y : RegIdx) (s : State) : Result :=
  .next (s.writeFlagAndDest (greaterFlag (s.reg x) (s.reg y)) x (fun t => t.reg x - t.reg y)).advance

/-- 8XY6 (R151): the operand is V[X]; Y is ignored. -/
def execShr (x _y : RegIdx) (s : State) : Result :=
  .next (s.writeFlagAndDest (lowBitFlag (s.reg x)) x (fun t => t.reg x >>> 1)).advance

/-- 8XY7 (R152): the destination is V[Y]. -/
def execSubn (x y : RegIdx) (s : State) : Result :=
  .next (s.writeFlagAndDest (greaterFlag (s.reg y) (s.reg x)) y (fun t => t.reg y - t.reg x)).advance

/-- 8XYE (R153): the operand is V[X]; Y is ignored. -/
def execShl (x _y : RegIdx) (s : State) : Result :=
  .next (s.writeFlagAndDest (highBitFlag (s.reg x)) x (fun t => t.reg x <<< 1)).advance

/-- CXNN (R154): a fresh draw, of which nothing is known, masked by the immediate. -/
def execRnd (x : RegIdx) (nn : Byte) (s : State) : Result :=
  .next ({ s with rndCount := s.rndCount + 1 }.setReg x (Config.rand s.rndCount &&& nn)).advance

end Sys2Proof.Machine
end

