-- ==== Sys2Proof/Machine/Display.lean ====
section
/-!
DEFINITION. The display instructions 00E0 and DXYN (spec/41_display.md).
-/

namespace Sys2Proof.Machine

/-- 00E0 (R110). -/
def execCls (s : State) : Result := .next { s with fb := 0, draw := true }.advance

/-- The highest address DXYN touches; none when N = 0, and then the check passes (R52, R112). -/
def State.lastSpriteAddr (s : State) (n : Nat) : Nat := if n = 0 then 0 else s.indexAddr (n - 1)

/-- The frame buffer and the collision bit after drawing the N sprite bytes at `I` at (V[X], V[Y]) (R112). -/
def State.drawSprite (s : State) (x y : RegIdx) (n : Nat) : Canvas :=
  drawRows (s.spriteX x) (s.spriteY y) 0 (s.readBytes (s.indexAddr 0) n) (s.fb, false)

/-- DXYN (R112): position and sprite bytes are read before VF is written (decision D14). -/
def execDrw (x y : RegIdx) (n : Nat) (s : State) : Result :=
  s.checkedAccess (.drw x y n) (s.lastSpriteAddr n)
    ({ s with fb := (s.drawSprite x y n).1, draw := true }.setReg VF (flagByte (s.drawSprite x y n).2)).advance

end Sys2Proof.Machine
end

