-- ==== Sys2Proof/Machine/Flow.lean ====
section
/-!
DEFINITION. Control transfer and skips: 00EE, 1NNN, 2NNN, 3XNN, 4XNN, 5XY0, 9XY0, BNNN (spec/42_flow.md).
-/

namespace Sys2Proof.Machine

/-- 00EE (R121): "decrement stack pointer first, then advance pc by 2 after restoring". -/
def execRet (s : State) : Result :=
  match s.pop with
  | none => raise (.stackUnderflow s.pc (encode .ret))
  | some (callAddr, s') => .next (s'.jump callAddr).advance

/-- 1NNN (R122). -/
def execJp (nnn : Word) (s : State) : Result := .next (s.jump nnn)

/-- 2NNN (R123): the address pushed is that of this CALL. -/
def execCall (nnn : Word) (s : State) : Result :=
  match s.push s.pc with
  | none => raise (.stackOverflow s.pc (encode (.call nnn)))
  | some s' => .next (s'.jump nnn)

/-- 3XNN (R124). -/
def execSeImm (x : RegIdx) (nn : Byte) (s : State) : Result := .next (s.skipIf (s.reg x == nn))

/-- 4XNN (R125). -/
def execSneImm (x : RegIdx) (nn : Byte) (s : State) : Result := .next (s.skipIf (s.reg x != nn))

/-- 5XY0 (R126). -/
def execSeReg (x y : RegIdx) (s : State) : Result := .next (s.skipIf (s.reg x == s.reg y))

/-- 9XY0 (R127). -/
def execSneReg (x y : RegIdx) (s : State) : Result := .next (s.skipIf (s.reg x != s.reg y))

/-- BNNN (R128). -/
def execJpV0 (nnn : Word) (s : State) : Result := .next (s.jump (s.v0Target nnn))

end Sys2Proof.Machine
end

