-- ==== Sys2Proof/Machine/IndexMem.lean ====
section
/-!
DEFINITION. Index register and memory instructions: ANNN, FX1E, FX29, FX33, FX55, FX65 (spec/44_index_memory.md). Every
access is at `I + k`, checked before the first one (R52); no memory instruction changes `I`.
-/

namespace Sys2Proof.Machine

/-- ANNN (R170). -/
def execLdI (nnn : Word) (s : State) : Result := .next { s with i := nnn }.advance

/-- FX1E (R171): modulo 65536, not reduced to 12 bits. -/
def execAddI (x : RegIdx) (s : State) : Result := .next { s with i := s.i + (s.reg x).setWidth 16 }.advance

/-- FX29 (R172). -/
def execLdFont (x : RegIdx) (s : State) : Result := .next { s with i := glyphAddr (s.reg x) }.advance

/-- FX33 (R173). -/
def execLdBcd (x : RegIdx) (s : State) : Result :=
  s.checkedAccess (.ldBcd x) (s.indexAddr 2) (s.writeBytes (s.indexAddr 0) (decimalDigits (s.reg x))).advance

/-- FX55 (R174). -/
def execStoreRegs (x : RegIdx) (s : State) : Result :=
  s.checkedAccess (.storeRegs x) (s.indexAddr x.val)
    (s.writeBytes (s.indexAddr 0) ((regsUpTo x).map s.reg)).advance

/-- FX65 (R175). -/
def execLoadRegs (x : RegIdx) (s : State) : Result :=
  s.checkedAccess (.loadRegs x) (s.indexAddr x.val)
    ((regsUpTo x).foldl (fun t k => t.setReg k (s.readByte (s.indexAddr k.val))) s).advance

end Sys2Proof.Machine
end

