-- ==== Sys2Proof/Machine/KeysTimers.lean ====
section
/-!
DEFINITION. Key and timer instructions: EX9E, EXA1, FX07, FX0A, FX15, FX18 (spec/45_keys_timers.md).
-/

namespace Sys2Proof.Machine

/-- EX9E (R190). -/
def execSkp (x : RegIdx) (s : State) : Result :=
  if h : (s.reg x).toNat < 16 then .next (s.skipIf (s.pressed ⟨(s.reg x).toNat, h⟩))
  else raise (.keyIndexOutOfBounds s.pc (encode (.skp x)) (s.reg x))

/-- EXA1 (R191). -/
def execSknp (x : RegIdx) (s : State) : Result :=
  if h : (s.reg x).toNat < 16 then .next (s.skipIf (!s.pressed ⟨(s.reg x).toNat, h⟩))
  else raise (.keyIndexOutOfBounds s.pc (encode (.sknp x)) (s.reg x))

/-- FX07 (R192). -/
def execLdVxDt (x : RegIdx) (s : State) : Result := .next (s.setReg x s.dt).advance

/-- FX0A (R193): with no key pressed a completed step that changes no state (R98); the test is of the level, and the
least-numbered pressed key is taken. -/
def execLdVxKey (x : RegIdx) (s : State) : Result :=
  match s.leastPressed with
  | none => .next s
  | some k => .next (s.setReg x (BitVec.ofNat 8 k.val)).advance

/-- FX15 (R194). -/
def execLdDtVx (x : RegIdx) (s : State) : Result := .next { s with dt := s.reg x }.advance

/-- FX18 (R195). -/
def execLdStVx (x : RegIdx) (s : State) : Result := .next { s with st := s.reg x }.advance

end Sys2Proof.Machine
end

