-- ==== Sys2Proof/Machine/Step.lean ====
section
/-!
DEFINITION. One step (spec/40_cycle.md R90, R97): the program-counter check, fetch, decode, then the one instruction.
-/

namespace Sys2Proof.Machine

/-- One instruction cycle (R97). The draw `rand` of the spec's `step(state, rand)` comes from `Config.rand` and the
counter in the state (log entry 1). -/
def step (s : State) : Host.Outcome State Fault Refusal :=
  match s.fetchDecode with
  | .error f => raise f
  | .ok instr => exec instr s

/-- `s` with an opcode-table word of `nbits` bits stored at `pc` and `pc + 1`, where the next step fetches (R92). The
spec's own way to place a program is the host's Load (log entry 7). -/
def State.withFetchWord (s : State) (nbits w : Nat) : State :=
  s.writeOpcode s.pc.toNat (BitVec.ofNat 16 (w % 2 ^ nbits))

end Sys2Proof.Machine
end

