-- ==== Sys2Proof/Machine/HostOps.lean ====
section
/-!
DEFINITION. The host operations of spec/60_exceptions.md R225 to R232 and spec/70_reset_and_hazards.md R240 to R244: each is
one indivisible transition of the block's state, and the host may order them as it likes (spec/20_memory.md R60).
-/

namespace Sys2Proof.Machine

/-! ### reset and load -/

/-- `reset()` (R240): it depends on no prior state, but for what it does not define: the random source (R37), whose
counter goes on, and the parameters, which are fixed for the machine. -/
def State.resetOp (s : State) : State := State.resetWith s.params s.rndCount

/-- `load(b)` (R243, R244): the length check, then reset, then the copy (decision D21). -/
def State.load (s : State) (bytes : List Byte) : Result :=
  if programFits bytes then .next (s.resetOp.writeBytes Config.programBase bytes)
  else raise (.loadTooLarge bytes.length)

/-! ### Timers, keys, draw flag, frame buffer -/

/-- A timer at 0 stays 0 (R222). -/
def tickTimer (t : Byte) : Byte := if t = 0 then 0 else t - 1

/-- `tick()` (R222). -/
def State.tick (s : State) : State := { s with dt := tickTimer s.dt, st := tickTimer s.st }

/-- `write_keys(k)` (R228). -/
def State.writeKeys (s : State) (keys : Vector Bool 16) : State := { s with key := keys }

/-- `read_draw()` (R229). -/
def State.readDraw (s : State) : Bool := s.draw

/-- `clear_draw()` (R229). -/
def State.clearDraw (s : State) : State := { s with draw := false }

/-- `read_fb()` (R230): the 2048 cells, row-major. -/
def State.readFb (s : State) : List Bool := (List.range Config.fbCells).map s.cell

/-- `read_dt()` (R231). -/
def State.readDt (s : State) : Byte := s.dt

/-- `read_st()` (R231). -/
def State.readSt (s : State) : Byte := s.st

/-! ### The interface as one set of operations (R225) -/

/-- The operations of R225; there is no other (R232). -/
inductive HostOp where
  | reset
  | load (bytes : List Byte)
  | step
  | tick
  | writeKeys (keys : Vector Bool 16)
  | readDraw
  | clearDraw
  | readFb
  | readDt
  | readSt
  deriving DecidableEq, Repr

/-- What a host operation hands back beside `Ok` or the fault. -/
inductive Reply where
  | nothing
  | flag (b : Bool)
  | cells (fb : List Bool)
  | timer (t : Byte)
  deriving DecidableEq, Repr

/-- The transition a host operation makes (R225). -/
def perform (op : HostOp) (s : State) : Result :=
  match op with
  | .reset => .next s.resetOp
  | .load bytes => s.load bytes
  | .step => step s
  | .tick => .next s.tick
  | .writeKeys keys => .next (s.writeKeys keys)
  | .readDraw => .next s
  | .clearDraw => .next s.clearDraw
  | .readFb => .next s
  | .readDt => .next s
  | .readSt => .next s

/-- What a host operation reads (R229 to R231). -/
def reply (op : HostOp) (s : State) : Reply :=
  match op with
  | .readDraw => .flag s.readDraw
  | .readFb => .cells s.readFb
  | .readDt => .timer s.readDt
  | .readSt => .timer s.readSt
  | .reset => .nothing
  | .load _ => .nothing
  | .step => .nothing
  | .tick => .nothing
  | .writeKeys _ => .nothing
  | .clearDraw => .nothing

end Sys2Proof.Machine
end

