-- ==== Sys2Proof/Safety.lean ====
section
/-!
DEFINITION. The terms in which statements about the machine are made: the invariant of its state, what an instruction
leaves unchanged (frames), and the run of the block under host operations with the sticky fault mark and the end of a run
(spec/60_exceptions.md R213, R233).
-/

namespace Sys2Proof.Machine

/-! ### The invariant -/

/-- What holds of every state the block can reach: the memory has its canonical form, `pc` never exceeds 0x10FE (R25), and
every stack entry is the address of a CALL, at most 0xFFE, or 0 from reset (R121). -/
abbrev State.Inv (s : State) : Prop :=
  Memory.wf s.params.font s.mem ∧ s.pc.toNat ≤ 0x10FE ∧ ∀ k : Fin 16, s.stack[k.val].toNat ≤ Config.lastFetch

/-! ### Frames -/

/-- The pieces of state a frame speaks of, the V registers and `pc` apart. -/
inductive Part where
  | index
  | stack
  | sp
  | dt
  | st
  | mem
  | fb
  | key
  | draw
  | rndCount
  | params
  deriving DecidableEq, Repr

/-- A piece of state is the same in two states; of memory, every byte reads the same. -/
def Part.same (p : Part) (s t : State) : Prop :=
  match p with
  | .index => t.i = s.i
  | .stack => t.stack = s.stack
  | .sp => t.sp = s.sp
  | .dt => t.dt = s.dt
  | .st => t.st = s.st
  | .mem => ∀ a, t.readByte a = s.readByte a
  | .fb => t.fb = s.fb
  | .key => t.key = s.key
  | .draw => t.draw = s.draw
  | .rndCount => t.rndCount = s.rndCount
  | .params => t.params = s.params

/-- From `s` to `t` every register outside `regs` and every piece of state outside `parts` is unchanged. The frame does
not speak of `pc`. -/
def FrameOf (regs : List RegIdx) (parts : List Part) (s t : State) : Prop :=
  (∀ r, r ∉ regs → t.reg r = s.reg r) ∧ ∀ p, p ∉ parts → p.same s t

/-- The instruction completes with its own effect: a next state with the given `pc`, the given facts about it, and
everything else of the frame unchanged. -/
def Completes (instr : Instr) (s : State) (pc : Word) (regs : List RegIdx) (parts : List Part)
    (post : State → Prop) : Prop :=
  ∃ t, exec instr s = .next t ∧ t.pc = pc ∧ post t ∧ FrameOf regs parts s t

/-! ### Runs, the fault mark, the end of a run -/

/-- The block in a run: its state and the first fault of the run, if there was one. The mark is the run's, not the
block's: nothing of a fault is stored in the block (R211). -/
structure Session where
  state : State
  mark  : Option Fault
  deriving DecidableEq, Repr

/-- A new run starts with a reset or a load (R213, R216). -/
def HostOp.startsRun : HostOp → Bool
  | .reset => true
  | .load _ => true
  | .step => false
  | .tick => false
  | .writeKeys _ => false
  | .readDraw => false
  | .clearDraw => false
  | .readFb => false
  | .readDt => false
  | .readSt => false

/-- The first fault stays (R213: "a sticky fault mark that no later step clears"). -/
def keepFirst (mark : Option Fault) (f : Fault) : Option Fault :=
  match mark with
  | none => some f
  | some g => some g

/-- One host operation on a run: a fault changes no state (R212) and sets the mark; a reset or a load that succeeds
starts a new run, with no mark. -/
def Session.perform (op : HostOp) (m : Session) : Session :=
  match Machine.perform op m.state with
  | .next s' => { state := s', mark := if op.startsRun then none else m.mark }
  | .fault f => { m with mark := keepFirst m.mark f }
  | .refused _ => m

/-- Host operations one after another, in the order the host chose (R60, R226). -/
def Session.performAll : List HostOp → Session → Session
  | [], m => m
  | op :: ops, m => performAll ops (m.perform op)

/-- The instruction at `pc` is `1NNN` with `NNN = pc` (R233 b). -/
def State.selfJump (s : State) : Prop := s.fetchDecode = .ok (.jp s.pc)

/-- A bad end: a step, or a load, of this run has faulted (R233 a). -/
def Session.endedBadly (m : Session) : Prop := m.mark.isSome = true

/-- A final state: the halt idiom, in a run with no fault; "a faulted state is never final" (R213, R233 b). -/
def Session.endedWell (m : Session) : Prop := m.mark = none ∧ m.state.selfJump

/-- A safe step: it answers a next state. -/
def State.stepsSafely (s : State) : Prop := ∃ t, step s = .next t

end Sys2Proof.Machine
end

