-- ==== Sys2Proof/Certificates/Slice0/Obligations.lean ====
section
/-!
DEFINITION. The statements for the provers. Each says what the spec's rules say, in the terms of Safety.lean: a result is
given as a number or a cell computed from the state before, not by naming the meaning's own operations, and every
instruction's statement says the word its rule's encoding pattern gives.
Where a clause rests on a choice the spec marks as its own (a decision D<n> of spec/92_eei_decisions.md), the docstring
names it. A statement quantifies over every state, so over every value of the parameters `FONT` and `P_VF_ORDER`.
-/

namespace Sys2Proof.Claims

open Sys2Proof.Machine

/-! ### The opcode map and the illegal encodings, in numbers (R74, R75) -/

/-- The rows of the opcode map (R74) as (match, mask), transcribed from spec/opcode_table.json. -/
def opcodeMap : List (Word × Word) :=
  [(0x00E0, 0xFFFF), (0x00EE, 0xFFFF), (0x1000, 0xF000), (0x2000, 0xF000), (0x3000, 0xF000), (0x4000, 0xF000)] ++
  [(0x5000, 0xF00F), (0x6000, 0xF000), (0x7000, 0xF000), (0x8000, 0xF00F), (0x8001, 0xF00F), (0x8002, 0xF00F)] ++
  [(0x8003, 0xF00F), (0x8004, 0xF00F), (0x8005, 0xF00F), (0x8006, 0xF00F), (0x8007, 0xF00F), (0x800E, 0xF00F)] ++
  [(0x9000, 0xF00F), (0xA000, 0xF000), (0xB000, 0xF000), (0xC000, 0xF000), (0xD000, 0xF000), (0xE09E, 0xF0FF)] ++
  [(0xE0A1, 0xF0FF), (0xF007, 0xF0FF), (0xF00A, 0xF0FF), (0xF015, 0xF0FF), (0xF018, 0xF0FF), (0xF01E, 0xF0FF)] ++
  [(0xF029, 0xF0FF), (0xF033, 0xF0FF), (0xF055, 0xF0FF), (0xF065, 0xF0FF)]

/-- `0x5XYn`, `0x9XYn` with n != 0 (R75). -/
abbrev isMalformed (w : Nat) : Prop := (w / 0x1000 = 5 ∨ w / 0x1000 = 9) ∧ w % 0x10 ≠ 0

/-- The UnknownOpcode rows of R75. -/
abbrev isUnknown (w : Nat) : Prop :=
  (w / 0x1000 = 0 ∧ w ≠ 0x00E0 ∧ w ≠ 0x00EE) ∨
  (w / 0x1000 = 8 ∧ w % 0x10 ∈ [0x8, 0x9, 0xA, 0xB, 0xC, 0xD, 0xF]) ∨
  (w / 0x1000 = 0xE ∧ w % 0x100 ∉ [0x9E, 0xA1]) ∨
  (w / 0x1000 = 0xF ∧ w % 0x100 ∉ [0x07, 0x0A, 0x15, 0x18, 0x1E, 0x29, 0x33, 0x55, 0x65])

/-! ### What each instruction may write, and its pc update -/

/-- The registers an instruction writes (R21, R140 and each rule's destination). -/
def destRegs : Instr → List RegIdx
  | .ldImm x _ => [x]
  | .addImm x _ => [x]
  | .ldReg x _ => [x]
  | .orReg x _ => [x]
  | .andReg x _ => [x]
  | .xorReg x _ => [x]
  | .addReg x _ => [x, VF]
  | .sub x _ => [x, VF]
  | .shr x _ => [x, VF]
  | .subn _ y => [y, VF]
  | .shl x _ => [x, VF]
  | .rnd x _ => [x]
  | .drw _ _ _ => [VF]
  | .ldVxDt x => [x]
  | .ldVxKey x => [x]
  | .loadRegs x => regsUpTo x
  | .cls => []
  | .ret => []
  | .jp _ => []
  | .call _ => []
  | .seImm _ _ => []
  | .sneImm _ _ => []
  | .seReg _ _ => []
  | .sneReg _ _ => []
  | .ldI _ => []
  | .jpV0 _ => []
  | .skp _ => []
  | .sknp _ => []
  | .ldDtVx _ => []
  | .ldStVx _ => []
  | .addI _ => []
  | .ldFont _ => []
  | .ldBcd _ => []
  | .storeRegs _ => []

/-- The other pieces of state an instruction writes. -/
def destParts : Instr → List Part
  | .cls => [.fb, .draw]
  | .ret => [.sp]
  | .call _ => [.stack, .sp]
  | .ldI _ => [.index]
  | .rnd _ _ => [.rndCount]
  | .drw _ _ _ => [.fb, .draw]
  | .ldDtVx _ => [.dt]
  | .ldStVx _ => [.st]
  | .addI _ => [.index]
  | .ldFont _ => [.index]
  | .ldBcd _ => [.mem]
  | .storeRegs _ => [.mem]
  | .jp _ => []
  | .seImm _ _ => []
  | .sneImm _ _ => []
  | .seReg _ _ => []
  | .ldImm _ _ => []
  | .addImm _ _ => []
  | .ldReg _ _ => []
  | .orReg _ _ => []
  | .andReg _ _ => []
  | .xorReg _ _ => []
  | .addReg _ _ => []
  | .sub _ _ => []
  | .shr _ _ => []
  | .subn _ _ => []
  | .shl _ _ => []
  | .sneReg _ _ => []
  | .jpV0 _ => []
  | .skp _ => []
  | .sknp _ => []
  | .ldVxDt _ => []
  | .ldVxKey _ => []
  | .loadRegs _ => []

/-- The table of R96, in exact numbers. -/
def nextPc (s : State) : Instr → Nat
  | .seImm x nn => s.pc.toNat + (if s.reg x = nn then 4 else 2)
  | .sneImm x nn => s.pc.toNat + (if s.reg x ≠ nn then 4 else 2)
  | .seReg x y => s.pc.toNat + (if s.reg x = s.reg y then 4 else 2)
  | .sneReg x y => s.pc.toNat + (if s.reg x ≠ s.reg y then 4 else 2)
  | .skp x => s.pc.toNat + (if s.key[(s.reg x).toNat]? = some true then 4 else 2)
  | .sknp x => s.pc.toNat + (if s.key[(s.reg x).toNat]? = some false then 4 else 2)
  | .jp nnn => nnn.toNat
  | .call nnn => nnn.toNat
  | .jpV0 nnn => (s.reg V0).toNat + nnn.toNat
  | .ret => (s.stack.toList.getD (s.sp.val - 1) 0).toNat + 2
  | .ldVxKey _ => if true ∈ s.key.toList then s.pc.toNat + 2 else s.pc.toNat
  | .cls => s.pc.toNat + 2
  | .ldImm _ _ => s.pc.toNat + 2
  | .addImm _ _ => s.pc.toNat + 2
  | .ldReg _ _ => s.pc.toNat + 2
  | .orReg _ _ => s.pc.toNat + 2
  | .andReg _ _ => s.pc.toNat + 2
  | .xorReg _ _ => s.pc.toNat + 2
  | .addReg _ _ => s.pc.toNat + 2
  | .sub _ _ => s.pc.toNat + 2
  | .shr _ _ => s.pc.toNat + 2
  | .subn _ _ => s.pc.toNat + 2
  | .shl _ _ => s.pc.toNat + 2
  | .ldI _ => s.pc.toNat + 2
  | .rnd _ _ => s.pc.toNat + 2
  | .drw _ _ _ => s.pc.toNat + 2
  | .ldVxDt _ => s.pc.toNat + 2
  | .ldDtVx _ => s.pc.toNat + 2
  | .ldStVx _ => s.pc.toNat + 2
  | .addI _ => s.pc.toNat + 2
  | .ldFont _ => s.pc.toNat + 2
  | .ldBcd _ => s.pc.toNat + 2
  | .storeRegs _ => s.pc.toNat + 2
  | .loadRegs _ => s.pc.toNat + 2

/-- The instructions that have no fault check of their own (R94 lists the others). -/
def hasNoCheck : Instr → Bool
  | .ret => false
  | .call _ => false
  | .drw _ _ _ => false
  | .ldBcd _ => false
  | .storeRegs _ => false
  | .loadRegs _ => false
  | .skp _ => false
  | .sknp _ => false
  | .cls => true
  | .jp _ => true
  | .seImm _ _ => true
  | .sneImm _ _ => true
  | .seReg _ _ => true
  | .ldImm _ _ => true
  | .addImm _ _ => true
  | .ldReg _ _ => true
  | .orReg _ _ => true
  | .andReg _ _ => true
  | .xorReg _ _ => true
  | .addReg _ _ => true
  | .sub _ _ => true
  | .shr _ _ => true
  | .subn _ _ => true
  | .shl _ _ => true
  | .sneReg _ _ => true
  | .ldI _ => true
  | .jpV0 _ => true
  | .rnd _ _ => true
  | .ldVxDt _ => true
  | .ldVxKey _ => true
  | .ldDtVx _ => true
  | .ldStVx _ => true
  | .addI _ => true
  | .ldFont _ => true

/-- Whether a register field an order-dependent instruction reads or writes names VF (R144). -/
def namesVf : Instr → Prop
  | .sub x y => x = VF ∨ y = VF
  | .shr x _ => x = VF
  | .subn x y => x = VF ∨ y = VF
  | .shl x _ => x = VF
  | .cls => False
  | .ret => False
  | .jp _ => False
  | .call _ => False
  | .seImm _ _ => False
  | .sneImm _ _ => False
  | .seReg _ _ => False
  | .ldImm _ _ => False
  | .addImm _ _ => False
  | .ldReg _ _ => False
  | .orReg _ _ => False
  | .andReg _ _ => False
  | .xorReg _ _ => False
  | .addReg _ _ => False
  | .sneReg _ _ => False
  | .ldI _ => False
  | .jpV0 _ => False
  | .rnd _ _ => False
  | .drw _ _ _ => False
  | .skp _ => False
  | .sknp _ => False
  | .ldVxDt _ => False
  | .ldVxKey _ => False
  | .ldDtVx _ => False
  | .ldStVx _ => False
  | .addI _ => False
  | .ldFont _ => False
  | .ldBcd _ => False
  | .storeRegs _ => False
  | .loadRegs _ => False

/-! ### Sprites (R111 to R113) -/

/-- Whether the sprite of DXYN has a 1 bit on the cell of column `cx` and row `cy`: the cell lies `c` columns right of
and `r` rows below the start position, coordinates wrapping, and bit 7 - c of sprite byte r is 1 (R111). -/
def spriteCovers (s : State) (x y : RegIdx) (n cx cy : Nat) : Bool :=
  let c := (cx + 64 - (s.reg x).toNat % 64) % 64
  let r := (cy + 32 - (s.reg y).toNat % 32) % 32
  decide (r < n) && decide (c < 8) && (s.readByte (s.i.toNat + r)).getLsbD (7 - c)

end Sys2Proof.Claims

open Sys2Proof Sys2Proof.Machine Sys2Proof.Claims

/-! ### Encoding -/

/-- R74 and the examples of the instruction rules: words written out from the encodings decode to their instructions. -/
def Obligations.SampleWordsDecode : Prop :=
  decode 0x00E0#16 = .ok .cls ∧ decode 0x00EE#16 = .ok .ret ∧
  decode 0x1234#16 = .ok (.jp 0x234#16) ∧ decode 0x3342#16 = .ok (.seImm 3 0x42#8) ∧
  decode 0x8AB5#16 = .ok (.sub 0xA 0xB) ∧ decode 0x8127#16 = .ok (.subn 1 2) ∧
  decode 0xD015#16 = .ok (.drw 0 1 5) ∧ decode 0xE1A1#16 = .ok (.sknp 1) ∧
  decode 0xF533#16 = .ok (.ldBcd 5) ∧ decode 0xF265#16 = .ok (.loadRegs 2)

/-- No bit of an encoding is dropped: every well-formed instruction, with every operand its fields can hold, decodes back
from its encoding (R71 to R74). -/
def Obligations.DecodeOfEncodeIsTheInstruction : Prop :=
  ∀ i : Instr, i.wellFormed = true → decode (encode i) = .ok i

/-- The other direction: a word that decodes is the encoding of the instruction it gives, which is well-formed. Every bit
of a pattern is fixed or an operand; the ignored Y of 8XY6 and 8XYE is kept (R77). -/
def Obligations.DecodedWordIsItsEncoding : Prop :=
  ∀ (w : Word) (i : Instr), decode w = .ok i → i.wellFormed = true ∧ encode i = w

/-- A word decodes exactly when one row of the opcode map matches it, and no word matches two (R74, R76). -/
def Obligations.WordDecodesExactlyWhenOneRowMatches : Prop :=
  ∀ w : Word,
    ((∃ i, decode w = .ok i) ↔ (opcodeMap.filter (fun row => w &&& row.2 == row.1)).length = 1) ∧
    (opcodeMap.filter (fun row => w &&& row.2 == row.1)).length ≤ 1

/-- R75 (the exact match of group 0 is the spec's decision D16): which words are MalformedOperand and which UnknownOpcode,
and that the step then gives that fault; every other word decodes. -/
def Obligations.IllegalOpcodesFaultAsTheTableSays : Prop :=
  ∀ s : State, s.pc.toNat ≤ 0xFFE →
    (isMalformed s.opcodeAtPc.toNat → step s = .fault (.malformedOperand s.pc s.opcodeAtPc)) ∧
    (isUnknown s.opcodeAtPc.toNat → step s = .fault (.unknownOpcode s.pc s.opcodeAtPc)) ∧
    (¬ isMalformed s.opcodeAtPc.toNat → ¬ isUnknown s.opcodeAtPc.toNat → ∃ i, decode s.opcodeAtPc = .ok i)

/-! ### The step -/

/-- R97, with the check of R91, the fetch of R92 and the decode failure of R93: the step is exec of the decoded
instruction, and adds nothing around it. -/
def Obligations.StepRunsTheDecodedInstruction : Prop :=
  ∀ s : State,
    (s.pc.toNat > 0xFFE → step s = .fault (.programCounterOutOfBounds s.pc)) ∧
    (s.pc.toNat ≤ 0xFFE →
      ∀ w : Word, w = s.readByte s.pc.toNat ++ s.readByte (s.pc.toNat + 1) →
        (∀ i, decode w = .ok i → step s = exec i s) ∧
        (decode w = .error .unknownOpcode → step s = .fault (.unknownOpcode s.pc w)) ∧
        (decode w = .error .malformedOperand → step s = .fault (.malformedOperand s.pc w)))

/-- Every instruction has a meaning: no step, from any state, is refused (R95: "exactly one operation's effect"). -/
def Obligations.NoStepIsRefused : Prop := ∀ (s : State) (r : Refusal), step s ≠ .refused r

/-- R94: the instructions outside its list complete in every state. (Which check the listed ones make is said by their
own statements.) -/
def Obligations.InstructionsWithoutCheckComplete : Prop :=
  ∀ (i : Instr) (s : State), hasNoCheck i = true → ∃ t, exec i s = .next t

/-- The fault record of a step (R211, the spec's decision D4; R214): `pc` is that at the start of the step, `opcode` the
fetched opcode, absent exactly for ProgramCounterOutOfBounds; a step never gives LoadTooLarge. -/
def Obligations.StepFaultRecordNamesPcAndOpcode : Prop :=
  ∀ (s : State) (f : Fault), step s = .fault f →
    f.recordPc = some s.pc ∧
    f.recordOpcode = (if s.pc.toNat > 0xFFE then none else some s.opcodeAtPc) ∧
    (f.code = 1 ↔ s.pc.toNat > 0xFFE) ∧ f.code ≠ 8

/-- R96, the whole table, in exact numbers: from a state of the invariant whose `pc` can be fetched from, a well-formed
instruction that completes leaves the `pc` its row gives, and no sum wraps (none exceeds 0x10FE). -/
def Obligations.PcUpdateFollowsTheTable : Prop :=
  ∀ (i : Instr) (s t : State), s.Inv → s.pc.toNat ≤ 0xFFE → i.wellFormed = true → exec i s = .next t →
    t.pc.toNat = nextPc s i ∧ nextPc s i ≤ 0x10FE

/-- The frame of every instruction at once: it changes no register but its destinations and no piece of state but those
its rule names. So key state and parameters are never written, DT and ST only by FX15 and FX18 (R90), `draw` only by 00E0
and DXYN (R35), the stack only by 2NNN (R26), memory only by FX33 and FX55 (R50), VF only by the writers of R21. -/
def Obligations.InstructionsWriteOnlyTheirOwnState : Prop :=
  ∀ (i : Instr) (s t : State), exec i s = .next t → FrameOf (destRegs i) (destParts i) s t

/-- "No instruction reads it" of `draw` (R35) and of ST (R29): two states that differ only there step alike, and the next
states differ only there. -/
def Obligations.DrawFlagAndSoundTimerAreNotRead : Prop :=
  ∀ (s : State) (b : Bool) (v : Byte),
    (∀ f, step s = .fault f ↔ step { s with draw := b, st := v } = .fault f) ∧
    (∀ t, step s = .next t →
      ∃ b' v', step { s with draw := b, st := v } = .next { t with draw := b', st := v' })

/-! ### Invariants -/

/-- The state after reset meets the invariant, whatever the parameters. -/
def Obligations.ResetMeetsTheInvariant : Prop :=
  State.reset.Inv ∧ ∀ (p : Config.Params) (n : Nat), (State.resetWith p n).Inv

/-- Every step keeps the invariant: the memory stays canonical, `pc` at most 0x10FE (R25), stack entries at most 0xFFE
(R121). -/
def Obligations.StepKeepsTheInvariant : Prop :=
  ∀ s t : State, s.Inv → step s = .next t → t.Inv

/-- Whatever operations the host makes, in whatever order (R60), from construction on, the invariant holds. -/
def Obligations.EveryHostScheduleKeepsTheInvariant : Prop :=
  ∀ (ops : List HostOp) (m : Session), m.state.Inv → (Session.performAll ops m).state.Inv

/-- Canonical memories that read the same are the same list, so equal memories are equal data. -/
def Obligations.CanonicalMemoriesReadingAlikeAreEqual : Prop :=
  ∀ (font : Config.Font) (m m' : Memory), Memory.wf font m → Memory.wf font m' →
    (∀ a, a < 0x1000 → Memory.read font m a = Memory.read font m' a) → m = m'

/-! ### Faults and the end of a run -/

/-- R212 (atomic checks are the spec's decision D2): an operation that faults changes no state. -/
def Obligations.FaultingOperationChangesNoState : Prop :=
  ∀ (op : HostOp) (m : Session) (f : Fault), perform op m.state = .fault f →
    (Session.perform op m).state = m.state ∧ (Session.perform op m).mark ≠ none

/-- R213: once a step has faulted, whatever the host does but reset and load, the next step faults the same way, and the
run's mark stays the first fault. -/
def Obligations.FaultRepeatsUntilResetOrLoad : Prop :=
  ∀ (s : State) (f g : Fault) (ops : List HostOp), step s = .fault f → (∀ op ∈ ops, op.startsRun = false) →
    step (Session.performAll ops { state := s, mark := some g }).state = .fault f ∧
    (Session.performAll ops { state := s, mark := some g }).mark = some g

/-- The halt idiom (R122, R233 b; the end of a run is the spec's decision D27): from a jump to itself every further step
changes no state. -/
def Obligations.SelfJumpChangesNoState : Prop :=
  ∀ (k : Nat) (m : Session), m.state.selfJump → Session.performAll (List.replicate k .step) m = m

/-! ### Display -/

/-- R110. -/
def Obligations.ClsClearsEveryCellAndSetsDraw : Prop :=
  decode 0x00E0#16 = .ok .cls ∧
  ∀ s : State, Completes .cls s (s.pc + 2) [] [.fb, .draw] fun t => (∀ k, t.cell k = false) ∧ t.draw = true

/-- R112 with R111 (the spec's decisions D8, D11 to D14): where every sprite byte exists, each pixel ends as the old one
XOR the sprite, every coordinate wrapping, bit 7 leftmost; VF is 1 exactly if the sprite covers a cell that was 1, else
0; X = F and Y = F use the old VF; `draw` is set. -/
def Obligations.DrwXorsTheSpriteAndReportsCollision : Prop :=
  ∀ (X Y N : BitVec 4) (s : State),
    decode (0xD#4 ++ X ++ Y ++ N) = .ok (.drw X.toFin Y.toFin N.toNat) ∧
    (N.toNat = 0 ∨ s.i.toNat + N.toNat - 1 ≤ 0xFFF →
      Completes (.drw X.toFin Y.toFin N.toNat) s (s.pc + 2) [VF] [.fb, .draw] fun t =>
        (∀ cx cy, cx < 64 → cy < 32 →
          t.cell (cy * 64 + cx) = (s.cell (cy * 64 + cx) ^^ spriteCovers s X.toFin Y.toFin N.toNat cx cy)) ∧
        (t.reg VF = 0 ∨ t.reg VF = 1) ∧
        (t.reg VF = 1 ↔ ∃ cx cy, cx < 64 ∧ cy < 32 ∧ s.cell (cy * 64 + cx) = true ∧
          spriteCovers s X.toFin Y.toFin N.toNat cx cy = true) ∧
        t.draw = true)

/-- The MemoryOutOfBounds row of DXYN (R52, R112; the spec's decision D8): the fault names the highest address. -/
def Obligations.DrwBeyondMemoryFaults : Prop :=
  ∀ (X Y N : BitVec 4) (s : State), N.toNat > 0 → s.i.toNat + N.toNat - 1 > 0xFFF →
    exec (.drw X.toFin Y.toFin N.toNat) s =
      .fault (.memoryOutOfBounds s.pc (0xD#4 ++ X ++ Y ++ N) (s.i.toNat + N.toNat - 1))

/-- R113: drawing the same sprite twice at the same place restores the frame buffer; the second draw sets VF to 1 exactly
if some 1 bit of the sprite fell on a cell that was 0 before the first. -/
def Obligations.DrawingTwiceRestoresTheFrameBuffer : Prop :=
  ∀ (x y : RegIdx) (n : Nat) (s t u : State), n ≤ 15 →
    exec (.drw x y n) s = .next t →
    (t.reg x).toNat % 64 = (s.reg x).toNat % 64 → (t.reg y).toNat % 32 = (s.reg y).toNat % 32 →
    exec (.drw x y n) t = .next u →
    u.fb = s.fb ∧
    (u.reg VF = 0 ∨ u.reg VF = 1) ∧
    (u.reg VF = 1 ↔ ∃ cx cy, cx < 64 ∧ cy < 32 ∧ s.cell (cy * 64 + cx) = false ∧
      spriteCovers s x y n cx cy = true)

/-! ### Control transfer -/

/-- R122. -/
def Obligations.JpSetsPc : Prop :=
  ∀ (NNN : BitVec 12) (s : State),
    decode (0x1#4 ++ NNN) = .ok (.jp (NNN.setWidth 16)) ∧
    Completes (.jp (NNN.setWidth 16)) s (NNN.setWidth 16) [] [] fun _ => True

/-- R128 (that odd and low targets are taken is the spec's decision D20): the exact sum V0 + NNN, at most 0x10FE. -/
def Obligations.JpV0AddsV0Exactly : Prop :=
  ∀ (NNN : BitVec 12) (s : State),
    decode (0xB#4 ++ NNN) = .ok (.jpV0 (NNN.setWidth 16)) ∧
    Completes (.jpV0 (NNN.setWidth 16)) s (BitVec.ofNat 16 ((s.reg 0).toNat + NNN.toNat)) [] []
      fun t => t.pc.toNat = (s.reg 0).toNat + NNN.toNat

/-- R123 (the fault and the depth of 16 are the spec's decisions D5 and D7): CALL pushes its own address; with 16 entries
in use it faults. -/
def Obligations.CallPushesItsOwnAddress : Prop :=
  ∀ (NNN : BitVec 12) (s : State),
    decode (0x2#4 ++ NNN) = .ok (.call (NNN.setWidth 16)) ∧
    (s.sp.val < 16 →
      Completes (.call (NNN.setWidth 16)) s (NNN.setWidth 16) [] [.stack, .sp] fun t =>
        t.sp.val = s.sp.val + 1 ∧ t.stack[s.sp.val]? = some s.pc ∧
        ∀ k, k ≠ s.sp.val → t.stack[k]? = s.stack[k]?) ∧
    (s.sp.val = 16 →
      exec (.call (NNN.setWidth 16)) s = .fault (.stackOverflow s.pc (0x2#4 ++ NNN)))

/-- R121 (the fault is the spec's decision D6): RET returns to the instruction after the CALL whose address is on top, and
leaves the entry as it is; with no entry in use it faults. -/
def Obligations.RetReturnsAfterTheCall : Prop :=
  decode 0x00EE#16 = .ok .ret ∧
  ∀ s : State,
    (∀ w : Word, s.sp.val > 0 → s.stack[s.sp.val - 1]? = some w →
      Completes .ret s (w + 2) [] [.sp] fun t => t.sp.val = s.sp.val - 1) ∧
    (s.sp.val = 0 → exec .ret s = .fault (.stackUnderflow s.pc 0x00EE#16))

/-- A call and its return (R121, R123): after CALL, whatever the subroutine does to the rest of the state, a RET that finds
the stack as CALL left it comes back to the instruction after the CALL with the old `sp`. -/
def Obligations.ReturnComesBackAfterTheCall : Prop :=
  ∀ (nnn : Word) (s t t' : State), exec (.call nnn) s = .next t → t'.stack = t.stack → t'.sp = t.sp →
    ∃ u, exec .ret t' = .next u ∧ u.pc = s.pc + 2 ∧ u.sp = s.sp

/-- R124 and R125: skips on an immediate. -/
def Obligations.SkipsOnAnImmediate : Prop :=
  ∀ (X : BitVec 4) (NN : Byte) (s : State),
    decode (0x3#4 ++ X ++ NN) = .ok (.seImm X.toFin NN) ∧
    Completes (.seImm X.toFin NN) s (if s.reg X.toFin = NN then s.pc + 4 else s.pc + 2) [] [] (fun _ => True) ∧
    decode (0x4#4 ++ X ++ NN) = .ok (.sneImm X.toFin NN) ∧
    Completes (.sneImm X.toFin NN) s (if s.reg X.toFin ≠ NN then s.pc + 4 else s.pc + 2) [] [] (fun _ => True)

/-- R126 and R127: skips on two registers, and the malformed words of both patterns. -/
def Obligations.SkipsOnTwoRegisters : Prop :=
  ∀ (X Y n : BitVec 4) (s : State),
    decode (0x5#4 ++ X ++ Y ++ 0x0#4) = .ok (.seReg X.toFin Y.toFin) ∧
    Completes (.seReg X.toFin Y.toFin) s (if s.reg X.toFin = s.reg Y.toFin then s.pc + 4 else s.pc + 2) [] []
      (fun _ => True) ∧
    decode (0x9#4 ++ X ++ Y ++ 0x0#4) = .ok (.sneReg X.toFin Y.toFin) ∧
    Completes (.sneReg X.toFin Y.toFin) s (if s.reg X.toFin ≠ s.reg Y.toFin then s.pc + 4 else s.pc + 2) [] []
      (fun _ => True) ∧
    (n ≠ 0 → decode (0x5#4 ++ X ++ Y ++ n) = .error .malformedOperand ∧
      decode (0x9#4 ++ X ++ Y ++ n) = .error .malformedOperand)

/-! ### Registers and arithmetic -/

/-- R141 and R142: load and add an immediate; the sum is modulo 256 and VF is no flag. -/
def Obligations.ImmediateLoadAndAdd : Prop :=
  ∀ (X : BitVec 4) (NN : Byte) (s : State),
    decode (0x6#4 ++ X ++ NN) = .ok (.ldImm X.toFin NN) ∧
    Completes (.ldImm X.toFin NN) s (s.pc + 2) [X.toFin] [] (fun t => t.reg X.toFin = NN) ∧
    decode (0x7#4 ++ X ++ NN) = .ok (.addImm X.toFin NN) ∧
    Completes (.addImm X.toFin NN) s (s.pc + 2) [X.toFin] []
      (fun t => (t.reg X.toFin).toNat = ((s.reg X.toFin).toNat + NN.toNat) % 256)

/-- R143, R145, R146 and R147 with R140: copy, OR, AND, XOR. That VF is left unchanged where it is not the destination is
the spec's decision D17 (DESIGN CHOICE, log entry 21). -/
def Obligations.RegisterCopyAndLogic : Prop :=
  ∀ (X Y : BitVec 4) (s : State),
    decode (0x8#4 ++ X ++ Y ++ 0x0#4) = .ok (.ldReg X.toFin Y.toFin) ∧
    Completes (.ldReg X.toFin Y.toFin) s (s.pc + 2) [X.toFin] [] (fun t => t.reg X.toFin = s.reg Y.toFin) ∧
    decode (0x8#4 ++ X ++ Y ++ 0x1#4) = .ok (.orReg X.toFin Y.toFin) ∧
    Completes (.orReg X.toFin Y.toFin) s (s.pc + 2) [X.toFin] []
      (fun t => t.reg X.toFin = s.reg X.toFin ||| s.reg Y.toFin) ∧
    decode (0x8#4 ++ X ++ Y ++ 0x2#4) = .ok (.andReg X.toFin Y.toFin) ∧
    Completes (.andReg X.toFin Y.toFin) s (s.pc + 2) [X.toFin] []
      (fun t => t.reg X.toFin = s.reg X.toFin &&& s.reg Y.toFin) ∧
    decode (0x8#4 ++ X ++ Y ++ 0x3#4) = .ok (.xorReg X.toFin Y.toFin) ∧
    Completes (.xorReg X.toFin Y.toFin) s (s.pc + 2) [X.toFin] []
      (fun t => t.reg X.toFin = s.reg X.toFin ^^^ s.reg Y.toFin)

/-- R149: VF ends as the carry, whatever X is; a destination other than VF holds the sum modulo 256. -/
def Obligations.AddRegisterSetsCarry : Prop :=
  ∀ (X Y : BitVec 4) (s : State),
    decode (0x8#4 ++ X ++ Y ++ 0x4#4) = .ok (.addReg X.toFin Y.toFin) ∧
    Completes (.addReg X.toFin Y.toFin) s (s.pc + 2) [X.toFin, VF] [] fun t =>
      (X ≠ 0xF#4 → (t.reg X.toFin).toNat = ((s.reg X.toFin).toNat + (s.reg Y.toFin).toNat) % 256) ∧
      (t.reg VF).toNat = (if (s.reg X.toFin).toNat + (s.reg Y.toFin).toNat > 255 then 1 else 0)

/-- R150 with R144 (`P_VF_ORDER` is the spec's decision D15): the whole table of corner cases, for both orders. -/
def Obligations.SubCoversEveryVfCase : Prop :=
  ∀ (X Y : BitVec 4) (s : State) (vx vy f : Nat),
    vx = (s.reg X.toFin).toNat → vy = (s.reg Y.toFin).toNat → f = (if vx > vy then 1 else 0) →
    decode (0x8#4 ++ X ++ Y ++ 0x5#4) = .ok (.sub X.toFin Y.toFin) ∧
    Completes (.sub X.toFin Y.toFin) s (s.pc + 2) [X.toFin, VF] [] fun t =>
      (X ≠ 0xF#4 → Y ≠ 0xF#4 → (t.reg X.toFin).toNat = (256 + vx - vy) % 256 ∧ (t.reg VF).toNat = f) ∧
      (X = 0xF#4 → Y ≠ 0xF#4 →
        (s.params.vfOrder = .asListed → (t.reg VF).toNat = (256 + f - vy) % 256) ∧
        (s.params.vfOrder = .flagLast → (t.reg VF).toNat = f)) ∧
      (X ≠ 0xF#4 → Y = 0xF#4 →
        (s.params.vfOrder = .asListed → (t.reg X.toFin).toNat = (256 + vx - f) % 256) ∧
        (s.params.vfOrder = .flagLast → (t.reg X.toFin).toNat = (256 + vx - vy) % 256) ∧
        (t.reg VF).toNat = f) ∧
      (X = 0xF#4 → Y = 0xF#4 → (t.reg VF).toNat = 0)

/-- R152 with R144 (`P_VF_ORDER` is the spec's decision D15): V[Y] is the destination; the whole table of corner cases,
for both orders. -/
def Obligations.SubnWritesVyAndCoversEveryVfCase : Prop :=
  ∀ (X Y : BitVec 4) (s : State) (vx vy f : Nat),
    vx = (s.reg X.toFin).toNat → vy = (s.reg Y.toFin).toNat → f = (if vy > vx then 1 else 0) →
    decode (0x8#4 ++ X ++ Y ++ 0x7#4) = .ok (.subn X.toFin Y.toFin) ∧
    Completes (.subn X.toFin Y.toFin) s (s.pc + 2) [Y.toFin, VF] [] fun t =>
      (X ≠ 0xF#4 → Y ≠ 0xF#4 → (t.reg Y.toFin).toNat = (256 + vy - vx) % 256 ∧ (t.reg VF).toNat = f) ∧
      (X = 0xF#4 → Y ≠ 0xF#4 →
        (s.params.vfOrder = .asListed → (t.reg Y.toFin).toNat = (256 + vy - f) % 256) ∧
        (s.params.vfOrder = .flagLast → (t.reg Y.toFin).toNat = (256 + vy - vx) % 256) ∧
        (t.reg VF).toNat = f) ∧
      (X ≠ 0xF#4 → Y = 0xF#4 →
        (s.params.vfOrder = .asListed → (t.reg VF).toNat = (256 + f - vx) % 256) ∧
        (s.params.vfOrder = .flagLast → (t.reg VF).toNat = f)) ∧
      (X = 0xF#4 → Y = 0xF#4 → (t.reg VF).toNat = 0)

/-- R151 and R153 with R144 (`P_VF_ORDER` is the spec's decision D15): shifts of V[X] by one, Y ignored. -/
def Obligations.ShiftsCoverEveryVfCase : Prop :=
  ∀ (X Y : BitVec 4) (s : State) (vx : Nat), vx = (s.reg X.toFin).toNat →
    decode (0x8#4 ++ X ++ Y ++ 0x6#4) = .ok (.shr X.toFin Y.toFin) ∧
    (Completes (.shr X.toFin Y.toFin) s (s.pc + 2) [X.toFin, VF] [] fun t =>
      (X ≠ 0xF#4 → (t.reg X.toFin).toNat = vx / 2 ∧ (t.reg VF).toNat = vx % 2) ∧
      (X = 0xF#4 →
        (s.params.vfOrder = .asListed → (t.reg VF).toNat = 0) ∧
        (s.params.vfOrder = .flagLast → (t.reg VF).toNat = vx % 2))) ∧
    decode (0x8#4 ++ X ++ Y ++ 0xE#4) = .ok (.shl X.toFin Y.toFin) ∧
    (Completes (.shl X.toFin Y.toFin) s (s.pc + 2) [X.toFin, VF] [] fun t =>
      (X ≠ 0xF#4 → (t.reg X.toFin).toNat = vx * 2 % 256 ∧ (t.reg VF).toNat = vx / 128) ∧
      (X = 0xF#4 →
        (s.params.vfOrder = .asListed → (t.reg VF).toNat = 2 * (vx / 128)) ∧
        (s.params.vfOrder = .flagLast → (t.reg VF).toNat = vx / 128)))

/-- R144 (`P_VF_ORDER` is the spec's decision D15): where no register field names VF, and for every instruction but 8XY5,
8XY6, 8XY7 and 8XYE always, the two orders give the same result. -/
def Obligations.VfOrderMattersOnlyWhereAFieldNamesVf : Prop :=
  ∀ (i : Instr) (s : State) (p : Config.Params), ¬ namesVf i → p.font = s.params.font →
    (∀ t, exec i s = .next t → exec i { s with params := p } = .next { t with params := p }) ∧
    (∀ f, exec i s = .fault f → exec i { s with params := p } = .fault f)

/-- R154 (the free draw is the spec's decision D23): V[X] is the draw masked by NN, for whatever the draw is; bits outside
NN are 0; the next draw is another one. That VF is left unchanged where it is not the destination is the spec's decision
D17 (R140; DESIGN CHOICE, log entry 21). -/
def Obligations.RndMasksTheDraw : Prop :=
  ∀ (X : BitVec 4) (NN : Byte) (s : State),
    decode (0xC#4 ++ X ++ NN) = .ok (.rnd X.toFin NN) ∧
    Completes (.rnd X.toFin NN) s (s.pc + 2) [X.toFin] [.rndCount] fun t =>
      t.reg X.toFin = Config.rand s.rndCount &&& NN ∧
      (∀ j, NN.getLsbD j = false → (t.reg X.toFin).getLsbD j = false) ∧ t.rndCount = s.rndCount + 1

/-! ### Index register and memory -/

/-- R170 and R172: `I` takes NNN, or 0x050 + V[X] * 5 with V[X] whole. -/
def Obligations.IndexLoads : Prop :=
  ∀ (NNN : BitVec 12) (X : BitVec 4) (s : State),
    decode (0xA#4 ++ NNN) = .ok (.ldI (NNN.setWidth 16)) ∧
    Completes (.ldI (NNN.setWidth 16)) s (s.pc + 2) [] [.index] (fun t => t.i.toNat = NNN.toNat) ∧
    decode (0xF#4 ++ X ++ 0x29#8) = .ok (.ldFont X.toFin) ∧
    Completes (.ldFont X.toFin) s (s.pc + 2) [] [.index]
      (fun t => t.i.toNat = 0x050 + (s.reg X.toFin).toNat * 5)

/-- R171 (the wrap at 16 bits is the spec's decision D19): `I` + V[X] modulo 65536, VF not written. -/
def Obligations.AddToIndexWrapsAtSixteenBits : Prop :=
  ∀ (X : BitVec 4) (s : State),
    decode (0xF#4 ++ X ++ 0x1E#8) = .ok (.addI X.toFin) ∧
    Completes (.addI X.toFin) s (s.pc + 2) [] [.index]
      (fun t => t.i.toNat = (s.i.toNat + (s.reg X.toFin).toNat) % 65536)

/-- R173 with R52 (the fault is the spec's decision D8): the three decimal digits at I, I+1, I+2, every other byte as
before; beyond 0xFFF the fault. -/
def Obligations.BcdStoresThreeDigits : Prop :=
  ∀ (X : BitVec 4) (s : State),
    decode (0xF#4 ++ X ++ 0x33#8) = .ok (.ldBcd X.toFin) ∧
    (s.i.toNat + 2 ≤ 0xFFF →
      Completes (.ldBcd X.toFin) s (s.pc + 2) [] [.mem] fun t =>
        (t.readByte (s.indexAddr 0)).toNat = (s.reg X.toFin).toNat / 100 ∧
        (t.readByte (s.indexAddr 1)).toNat = (s.reg X.toFin).toNat / 10 % 10 ∧
        (t.readByte (s.indexAddr 2)).toNat = (s.reg X.toFin).toNat % 10 ∧
        ∀ a, a < s.indexAddr 0 ∨ s.indexAddr 2 < a → t.readByte a = s.readByte a) ∧
    (s.i.toNat + 2 > 0xFFF →
      exec (.ldBcd X.toFin) s = .fault (.memoryOutOfBounds s.pc (0xF#4 ++ X ++ 0x33#8) (s.i.toNat + 2)))

/-- R174 with R52 (the fault and the unchanged `I` are the spec's decisions D8 and D18): V0..VX at I..I+X, every other
byte and `I` as before; beyond 0xFFF the fault. -/
def Obligations.StoreRegistersWritesV0ToVx : Prop :=
  ∀ (X : BitVec 4) (s : State),
    decode (0xF#4 ++ X ++ 0x55#8) = .ok (.storeRegs X.toFin) ∧
    (s.i.toNat + X.toNat ≤ 0xFFF →
      Completes (.storeRegs X.toFin) s (s.pc + 2) [] [.mem] fun t =>
        (∀ k : RegIdx, k.val ≤ X.toNat → t.readByte (s.indexAddr k.val) = s.reg k) ∧
        ∀ a, a < s.indexAddr 0 ∨ s.indexAddr X.toNat < a → t.readByte a = s.readByte a) ∧
    (s.i.toNat + X.toNat > 0xFFF →
      exec (.storeRegs X.toFin) s =
        .fault (.memoryOutOfBounds s.pc (0xF#4 ++ X ++ 0x55#8) (s.i.toNat + X.toNat)))

/-- R175 with R52 (the fault is the spec's decision D8): V0..VX from I..I+X, every other register, `I` and all of memory
as before; beyond 0xFFF the fault. -/
def Obligations.LoadRegistersReadsV0ToVx : Prop :=
  ∀ (X : BitVec 4) (s : State),
    decode (0xF#4 ++ X ++ 0x65#8) = .ok (.loadRegs X.toFin) ∧
    (s.i.toNat + X.toNat ≤ 0xFFF →
      ∃ t, exec (.loadRegs X.toFin) s = .next t ∧ t.pc = s.pc + 2 ∧
        (∀ k : RegIdx, k.val ≤ X.toNat → t.reg k = s.readByte (s.indexAddr k.val)) ∧
        (∀ k : RegIdx, X.toNat < k.val → t.reg k = s.reg k) ∧ ∀ p : Part, p.same s t) ∧
    (s.i.toNat + X.toNat > 0xFFF →
      exec (.loadRegs X.toFin) s =
        .fault (.memoryOutOfBounds s.pc (0xF#4 ++ X ++ 0x65#8) (s.i.toNat + X.toNat)))

/-- FX55 and FX65 are a pair (R174, R175): registers stored, then overwritten by anything, are loaded back. -/
def Obligations.LoadAfterStoreRestoresRegisters : Prop :=
  ∀ (x : RegIdx) (s t : State) (v : Vector Byte 16), exec (.storeRegs x) s = .next t →
    ∃ u, exec (.loadRegs x) { t with v := v } = .next u ∧
      (∀ k : RegIdx, k.val ≤ x.val → u.reg k = s.reg k) ∧ ∀ k : RegIdx, x.val < k.val → u.reg k = v[k.val]

/-- Self-modifying code needs no fence (R62): an FX55 that stores over the instruction after it is seen by the very next
fetch. -/
def Obligations.StoreIsSeenByTheNextFetch : Prop :=
  ∀ (s : State) (x : RegIdx), s.pc.toNat ≤ 0xFFC → decode s.opcodeAtPc = .ok (.storeRegs x) →
    s.i.toNat = s.pc.toNat + 2 → 1 ≤ x.val → s.i.toNat + x.val ≤ 0xFFF →
    ∃ t, step s = .next t ∧ t.pc.toNat = s.pc.toNat + 2 ∧ t.opcodeAtPc = s.reg 0 ++ s.reg 1

/-! ### Keys and timers -/

/-- R190 and R191 (the fault is the spec's decision D9): skip on the key numbered V[X]; V[X] > 15 faults. -/
def Obligations.KeySkipsTestTheKeyOrFault : Prop :=
  ∀ (X : BitVec 4) (s : State),
    decode (0xE#4 ++ X ++ 0x9E#8) = .ok (.skp X.toFin) ∧
    decode (0xE#4 ++ X ++ 0xA1#8) = .ok (.sknp X.toFin) ∧
    (∀ b : Bool, (s.reg X.toFin).toNat ≤ 15 → s.key[(s.reg X.toFin).toNat]? = some b →
      Completes (.skp X.toFin) s (if b = true then s.pc + 4 else s.pc + 2) [] [] (fun _ => True) ∧
      Completes (.sknp X.toFin) s (if b = false then s.pc + 4 else s.pc + 2) [] [] (fun _ => True)) ∧
    ((s.reg X.toFin).toNat > 15 →
      exec (.skp X.toFin) s = .fault (.keyIndexOutOfBounds s.pc (0xE#4 ++ X ++ 0x9E#8) (s.reg X.toFin)) ∧
      exec (.sknp X.toFin) s = .fault (.keyIndexOutOfBounds s.pc (0xE#4 ++ X ++ 0xA1#8) (s.reg X.toFin)))

/-- R192, R194 and R195: reading DT, setting DT, setting ST. -/
def Obligations.TimerRegisterMoves : Prop :=
  ∀ (X : BitVec 4) (s : State),
    decode (0xF#4 ++ X ++ 0x07#8) = .ok (.ldVxDt X.toFin) ∧
    Completes (.ldVxDt X.toFin) s (s.pc + 2) [X.toFin] [] (fun t => t.reg X.toFin = s.dt) ∧
    decode (0xF#4 ++ X ++ 0x15#8) = .ok (.ldDtVx X.toFin) ∧
    Completes (.ldDtVx X.toFin) s (s.pc + 2) [] [.dt] (fun t => t.dt = s.reg X.toFin) ∧
    decode (0xF#4 ++ X ++ 0x18#8) = .ok (.ldStVx X.toFin) ∧
    Completes (.ldStVx X.toFin) s (s.pc + 2) [] [.st] (fun t => t.st = s.reg X.toFin)

/-- R193 (level test and least index are the spec's decision D10): with a key pressed, V[X] is the least pressed key's
number and `pc` advances. -/
def Obligations.KeyWaitTakesTheLeastPressedKey : Prop :=
  ∀ (X : BitVec 4) (s : State) (k : KeyIdx),
    decode (0xF#4 ++ X ++ 0x0A#8) = .ok (.ldVxKey X.toFin) ∧
    (s.key[k.val] = true → (∀ j : KeyIdx, j.val < k.val → s.key[j.val] = false) →
      Completes (.ldVxKey X.toFin) s (s.pc + 2) [X.toFin] [] fun t => (t.reg X.toFin).toNat = k.val)

/-- R98: with no key pressed FX0A is a completed step that changes no state, so the next step runs it again. -/
def Obligations.KeyWaitWithNoKeyChangesNothing : Prop :=
  ∀ (x : RegIdx) (s : State), (∀ k : KeyIdx, s.key[k.val] = false) →
    exec (.ldVxKey x) s = .next s ∧
    (s.pc.toNat ≤ 0xFFE → decode s.opcodeAtPc = .ok (.ldVxKey x) →
      ∀ (n : Nat) (f : Option Fault), Session.performAll (List.replicate n .step) ⟨s, f⟩ = ⟨s, f⟩)

/-! ### The host's operations -/

/-- R222: each timer loses 1 if it is not 0; nothing else changes and a tick cannot fail. -/
def Obligations.TickDecrementsNonzeroTimers : Prop :=
  ∀ s : State, ∃ t, perform .tick s = .next t ∧
    t.dt.toNat = s.dt.toNat - 1 ∧ t.st.toNat = s.st.toNat - 1 ∧ t.pc = s.pc ∧ FrameOf [] [.dt, .st] s t

/-- R228 and R229 (the spec's decisions D31 and D22): `write_keys` sets all 16 flags, `clear_draw` clears the flag,
`read_draw` reads it; nothing else changes. -/
def Obligations.KeyWriteAndDrawFlagHandshake : Prop :=
  ∀ (s : State) (keys : Vector Bool 16),
    (∃ t, perform (.writeKeys keys) s = .next t ∧ t.key = keys ∧ t.pc = s.pc ∧ FrameOf [] [.key] s t) ∧
    (∃ t, perform .clearDraw s = .next t ∧ reply .readDraw t = .flag false ∧ t.pc = s.pc ∧ FrameOf [] [.draw] s t) ∧
    reply .readDraw s = .flag s.draw ∧ perform .readDraw s = .next s

/-- R230 and R231: the reads give the 2048 cells in row-major order, DT and ST, and change no state. -/
def Obligations.HostReadsChangeNothing : Prop :=
  ∀ s : State,
    (∃ cells : List Bool, reply .readFb s = .cells cells ∧ cells.length = 2048 ∧
      ∀ x y, x < 64 → y < 32 → cells[y * 64 + x]? = some (s.cell (y * 64 + x))) ∧
    reply .readDt s = .timer s.dt ∧ reply .readSt s = .timer s.st ∧
    perform .readFb s = .next s ∧ perform .readDt s = .next s ∧ perform .readSt s = .next s

/-- R240 (the set draw flag is the spec's decision D22) and R242: what reset leaves, from any state, and that a second
reset changes nothing. Of the two fields that are the model's own, reset leaves both (log entries 1 and 2). -/
def Obligations.ResetLeavesTheListedValues : Prop :=
  ∀ s : State, ∃ t, perform .reset s = .next t ∧ perform .reset t = .next t ∧
    (∀ r : RegIdx, t.reg r = 0) ∧ (∀ k : Fin 16, t.stack[k.val] = 0) ∧ (∀ k, t.cell k = false) ∧
    (∀ k : KeyIdx, t.key[k.val] = false) ∧ t.i = 0 ∧ t.sp = 0 ∧ t.dt = 0 ∧ t.st = 0 ∧ t.pc = 0x200#16 ∧
    t.draw = true ∧ (∀ j, j < 80 → some (t.readByte (0x050 + j)) = s.params.font[j]?) ∧
    (∀ a, a < 0x050 ∨ 0x0A0 ≤ a → t.readByte a = 0) ∧ t.params = s.params ∧ t.rndCount = s.rndCount

/-- R243 and R244 (the order check, reset, copy is the spec's decision D21): a program of at most 3584 bytes stands at
0x200, everything else as reset leaves it; a longer one faults. -/
def Obligations.LoadCopiesTheProgramOrFaults : Prop :=
  ∀ (s : State) (b : List Byte),
    (b.length ≤ 3584 →
      ∃ r t, perform .reset s = .next r ∧ perform (.load b) s = .next t ∧
        (∀ j, j < b.length → some (t.readByte (0x200 + j)) = b[j]?) ∧
        (∀ a, a < 0x200 ∨ 0x200 + b.length ≤ a → t.readByte a = r.readByte a) ∧
        t.pc = 0x200#16 ∧ FrameOf [] [.mem] r t) ∧
    (b.length > 3584 → perform (.load b) s = .fault (.loadTooLarge b.length))

/-- How a program comes to run (R245): the first step after a load runs the program's first two bytes, big-endian. -/
def Obligations.LoadedProgramRunsFromItsFirstBytes : Prop :=
  ∀ (s : State) (b0 b1 : Byte) (rest : List Byte) (i : Instr), rest.length ≤ 3582 → decode (b0 ++ b1) = .ok i →
    ∃ t, perform (.load (b0 :: b1 :: rest)) s = .next t ∧ step t = exec i t
end

