-- ==== Sys2Proof/Laws/Decode.lean ====
section
/-!
SUPPORT. What the field extractors read from each format of the encoder, and that the byte order is kept.
-/

namespace Sys2Proof

/-- The two bytes of an opcode, combined big-endian, are the opcode (R53). -/
@[simp] theorem opcodeOfBytes_hi_lo (w : Word) : opcodeOfBytes (opcodeHi w) (opcodeLo w) = w := by
  apply BitVec.eq_of_getLsbD_eq
  intro j hj
  simp only [opcodeOfBytes, opcodeHi, opcodeLo, BitVec.getLsbD_append, BitVec.getLsbD_extractLsb']
  by_cases h : j < 8
  · simp [h]
  · simp only [h, decide_false]
    rw [show 8 + (j - 8) = j by omega]
    simp [show j - 8 < 8 by omega]

/-- `decodeBytes` on the bytes of an opcode, in memory order, is `decode` (R53). -/
@[simp] theorem decodeBytes_hi_lo (w : Word) : decodeBytes (opcodeHi w) (opcodeLo w) = decode w := by
  simp [decodeBytes]

/-! ### Format oNNN -/

theorem fieldOp_formNNN (op : BitVec 4) (nnn : Word) : fieldOp (formNNN op nnn) = op.toNat := by
  simp only [fieldOp, formNNN]
  congr 1
  apply BitVec.eq_of_getLsbD_eq
  intro j hj
  simp only [BitVec.getLsbD_extractLsb', BitVec.getLsbD_append]
  interval_cases j <;> simp

theorem fieldNNN_formNNN (op : BitVec 4) {nnn : Word} (h : addrFits nnn = true) :
    fieldNNN (formNNN op nnn) = nnn := by
  have hlt : nnn.toNat < 2 ^ 12 := by
    have := of_decide_eq_true h
    omega
  apply BitVec.eq_of_getLsbD_eq
  intro j hj
  simp only [fieldNNN, formNNN, BitVec.getLsbD_setWidth, BitVec.getLsbD_extractLsb', BitVec.getLsbD_append]
  by_cases h12 : j < 12
  · simp [h12, hj]
  · simp only [h12, decide_false, Bool.false_and, Bool.and_false]
    exact (Nat.testBit_lt_two_pow (Nat.lt_of_lt_of_le hlt (Nat.pow_le_pow_right (by decide) (by omega)))).symm

/-! ### Format oXNN -/

theorem fieldOp_formXNN (op : BitVec 4) (x : RegIdx) (nn : Byte) : fieldOp (formXNN op x nn) = op.toNat := by
  simp only [fieldOp, formXNN]
  congr 1
  apply BitVec.eq_of_getLsbD_eq
  intro j hj
  simp only [BitVec.getLsbD_extractLsb', BitVec.getLsbD_append]
  interval_cases j <;> simp

theorem fieldX_formXNN (op : BitVec 4) (x : RegIdx) (nn : Byte) : fieldX (formXNN op x nn) = x := by
  have h : (formXNN op x nn).extractLsb' 8 4 = regNibble x := by
    apply BitVec.eq_of_getLsbD_eq
    intro j hj
    simp only [formXNN, BitVec.getLsbD_extractLsb', BitVec.getLsbD_append]
    interval_cases j <;> simp
  simp [fieldX, h, regNibble]

theorem fieldNN_formXNN (op : BitVec 4) (x : RegIdx) (nn : Byte) : fieldNN (formXNN op x nn) = nn := by
  apply BitVec.eq_of_getLsbD_eq
  intro j hj
  simp only [fieldNN, formXNN, BitVec.getLsbD_extractLsb', BitVec.getLsbD_append]
  interval_cases j <;> simp

/-! ### Formats oXYo and oXYN -/

theorem fieldOp_formXYN (op : BitVec 4) (x y : RegIdx) (n : BitVec 4) :
    fieldOp (formXYN op x y n) = op.toNat := by
  simp only [fieldOp, formXYN]
  congr 1
  apply BitVec.eq_of_getLsbD_eq
  intro j hj
  simp only [BitVec.getLsbD_extractLsb', BitVec.getLsbD_append]
  interval_cases j <;> simp

theorem fieldX_formXYN (op : BitVec 4) (x y : RegIdx) (n : BitVec 4) : fieldX (formXYN op x y n) = x := by
  have h : (formXYN op x y n).extractLsb' 8 4 = regNibble x := by
    apply BitVec.eq_of_getLsbD_eq
    intro j hj
    simp only [formXYN, BitVec.getLsbD_extractLsb', BitVec.getLsbD_append]
    interval_cases j <;> simp
  simp [fieldX, h, regNibble]

theorem fieldY_formXYN (op : BitVec 4) (x y : RegIdx) (n : BitVec 4) : fieldY (formXYN op x y n) = y := by
  have h : (formXYN op x y n).extractLsb' 4 4 = regNibble y := by
    apply BitVec.eq_of_getLsbD_eq
    intro j hj
    simp only [formXYN, BitVec.getLsbD_extractLsb', BitVec.getLsbD_append]
    interval_cases j <;> simp
  simp [fieldY, h, regNibble]

theorem fieldN_formXYN (op : BitVec 4) (x y : RegIdx) (n : BitVec 4) : fieldN (formXYN op x y n) = n.toNat := by
  simp only [fieldN, formXYN]
  congr 1
  apply BitVec.eq_of_getLsbD_eq
  intro j hj
  simp only [BitVec.getLsbD_extractLsb', BitVec.getLsbD_append]
  interval_cases j <;> simp

/-! ### From fields back to the word -/

theorem fieldOp_lt (w : Word) : fieldOp w < 16 := (w.extractLsb' 12 4).isLt

theorem fieldN_lt (w : Word) : fieldN w < 16 := (w.extractLsb' 0 4).isLt

/-- A decoded `NNN` fits its field (R72). -/
theorem addrFits_fieldNNN (w : Word) : addrFits (fieldNNN w) = true := by
  have := (w.extractLsb' 0 12).isLt
  simp only [addrFits, fieldNNN, BitVec.toNat_setWidth, decide_eq_true_eq]
  omega

/-- A decoded `N` fits its field (R72). -/
theorem heightFits_fieldN (w : Word) : heightFits (fieldN w) = true := by
  have := fieldN_lt w
  exact decide_eq_true (by omega)

theorem extract_op_of_fieldOp {w : Word} {n : Nat} (h : fieldOp w = n) : w.extractLsb' 12 4 = BitVec.ofNat 4 n := by
  subst h
  rw [fieldOp, BitVec.ofNat_toNat, BitVec.setWidth_eq]

theorem extract_n_of_fieldN {w : Word} {n : Nat} (h : fieldN w = n) : w.extractLsb' 0 4 = BitVec.ofNat 4 n := by
  subst h
  rw [fieldN, BitVec.ofNat_toNat, BitVec.setWidth_eq]

/-- Format oNNN holds every bit of a word. -/
theorem formNNN_fields {w : Word} {n : Nat} (h : fieldOp w = n) : formNNN (BitVec.ofNat 4 n) (fieldNNN w) = w := by
  rw [← extract_op_of_fieldOp h]
  apply BitVec.eq_of_getLsbD_eq
  intro j hj
  simp only [formNNN, fieldNNN, BitVec.getLsbD_append, BitVec.getLsbD_setWidth, BitVec.getLsbD_extractLsb']
  interval_cases j <;> simp

/-- Format oXNN holds every bit of a word. -/
theorem formXNN_fields {w : Word} {n : Nat} (h : fieldOp w = n) :
    formXNN (BitVec.ofNat 4 n) (fieldX w) (fieldNN w) = w := by
  rw [← extract_op_of_fieldOp h]
  apply BitVec.eq_of_getLsbD_eq
  intro j hj
  simp only [formXNN, show regNibble (fieldX w) = w.extractLsb' 8 4 from rfl, fieldNN, BitVec.getLsbD_append,
    BitVec.getLsbD_extractLsb']
  interval_cases j <;> simp

/-- Formats oXYo and oXYN hold every bit of a word. -/
theorem formXYN_fields {w : Word} {n : Nat} (h : fieldOp w = n) :
    formXYN (BitVec.ofNat 4 n) (fieldX w) (fieldY w) (w.extractLsb' 0 4) = w := by
  rw [← extract_op_of_fieldOp h]
  apply BitVec.eq_of_getLsbD_eq
  intro j hj
  simp only [formXYN, show regNibble (fieldX w) = w.extractLsb' 8 4 from rfl,
    show regNibble (fieldY w) = w.extractLsb' 4 4 from rfl, BitVec.getLsbD_append, BitVec.getLsbD_extractLsb']
  interval_cases j <;> simp

end Sys2Proof
end

