-- ==== Sys2Proof/Laws/Memory.lean ====
section
/-!
SUPPORT. The laws of the memory: read after write, and that every operation keeps the canonical form.
-/

namespace Sys2Proof.Machine.Memory

theorem lookup_put (m : Memory) (a : Nat) (v : Byte) (b : Nat) :
    lookup (put m a v) b = if b = a then some v else lookup m b := by
  induction m with
  | nil => simp [put, lookup]
  | cons c rest ih =>
    obtain ⟨k, w⟩ := c
    simp only [put]
    split
    · simp [lookup]
    · split
      · rename_i _ h
        subst h
        by_cases hb : b = a <;> simp [lookup, hb]
      · rename_i _ h
        by_cases hb : b = k
        · subst hb
          simp [lookup, Ne.symm h]
        · simp [lookup, hb, ih]

theorem lookup_erase (m : Memory) (a b : Nat) : lookup (erase m a) b = if b = a then none else lookup m b := by
  induction m with
  | nil => simp [erase, lookup]
  | cons c rest ih =>
    obtain ⟨k, w⟩ := c
    by_cases ha : a = k
    · subst ha
      by_cases hb : b = a
      · subst hb
        simpa [erase] using ih
      · simp [erase, lookup, hb, ih]
    · by_cases hb : b = k
      · subst hb
        simp [erase, lookup, ha, Ne.symm ha]
      · simp [erase, lookup, ha, hb, ih]

/-- Read after write (R51): the byte written, and every other byte as before. -/
theorem read_write (font : Config.Font) (m : Memory) {a : Nat} (ha : a < Config.memSize) (v : Byte) (b : Nat) :
    read font (write font m a v) b = if b = a then v else read font m b := by
  simp only [write, if_pos ha, read]
  split
  · rename_i hv
    rw [lookup_erase]
    by_cases hb : b = a <;> simp [hb, hv]
  · rw [lookup_put]
    by_cases hb : b = a <;> simp [hb]

/-- A write to an address that does not exist writes nothing (R52). -/
theorem write_of_not_lt {font : Config.Font} {m : Memory} {a : Nat} (ha : ¬ a < Config.memSize) (v : Byte) :
    write font m a v = m := by
  simp [write, ha]

theorem mem_put {m : Memory} {a : Nat} {v : Byte} {c : Host.Cell} (h : c ∈ put m a v) : c = (a, v) ∨ c ∈ m := by
  induction m with
  | nil => simpa [put] using h
  | cons d rest ih =>
    obtain ⟨k, w⟩ := d
    simp only [put] at h
    split at h
    · simpa using h
    · split at h
      · rcases List.mem_cons.mp h with h | h <;> simp [h]
      · rcases List.mem_cons.mp h with h | h
        · simp [h]
        · rcases ih h with h | h <;> simp [h]

theorem mem_of_mem_erase {m : Memory} {a : Nat} {c : Host.Cell} (h : c ∈ erase m a) : c ∈ m := by
  induction m with
  | nil => simp [erase] at h
  | cons d rest ih =>
    obtain ⟨k, w⟩ := d
    simp only [erase] at h
    split at h
    · simp [ih h]
    · rcases List.mem_cons.mp h with h | h
      · simp [h]
      · simp [ih h]

theorem pairwise_put {m : Memory} (hm : m.Pairwise (fun c d => c.1 < d.1)) (a : Nat) (v : Byte) :
    (put m a v).Pairwise (fun c d => c.1 < d.1) := by
  induction m with
  | nil => simp [put]
  | cons d rest ih =>
    obtain ⟨k, w⟩ := d
    obtain ⟨hk, hrest⟩ := List.pairwise_cons.mp hm
    simp only [put]
    split
    · rename_i hlt
      refine List.pairwise_cons.mpr ⟨fun c hc => ?_, hm⟩
      rcases List.mem_cons.mp hc with rfl | hc
      · exact hlt
      · exact Nat.lt_trans hlt (hk c hc)
    · split
      · rename_i _ heq
        subst heq
        exact List.pairwise_cons.mpr ⟨hk, hrest⟩
      · rename_i hlt hne
        refine List.pairwise_cons.mpr ⟨fun c hc => ?_, ih hrest⟩
        rcases mem_put hc with rfl | hc
        · show k < a
          omega
        · exact hk c hc

theorem pairwise_erase {m : Memory} (hm : m.Pairwise (fun c d => c.1 < d.1)) (a : Nat) :
    (erase m a).Pairwise (fun c d => c.1 < d.1) := by
  induction m with
  | nil => simp [erase]
  | cons d rest ih =>
    obtain ⟨k, w⟩ := d
    obtain ⟨hk, hrest⟩ := List.pairwise_cons.mp hm
    simp only [erase]
    split
    · exact ih hrest
    · exact List.pairwise_cons.mpr ⟨fun c hc => hk c (mem_of_mem_erase hc), ih hrest⟩

/-- Reset memory lists nothing, and that is canonical. -/
theorem wf_nil (font : Config.Font) : wf font [] := by simp [wf]

/-- A write keeps the canonical form. -/
theorem wf_write {font : Config.Font} {m : Memory} (hm : wf font m) (a : Nat) (v : Byte) :
    wf font (write font m a v) := by
  simp only [write]
  split
  · rename_i ha
    split
    · exact ⟨pairwise_erase hm.1 a, fun c hc => hm.2 c (mem_of_mem_erase hc)⟩
    · rename_i hv
      refine ⟨pairwise_put hm.1 a v, fun c hc => ?_⟩
      rcases mem_put hc with rfl | hc
      · exact ⟨ha, hv⟩
      · exact hm.2 c hc
  · exact hm

end Sys2Proof.Machine.Memory
end

