-- ==== Sys2Proof/Laws/State.lean ====
section
/-!
SUPPORT. One lemma per field per update of the state, true by rfl, so that no proof unfolds a record update; and the read
after write laws of registers.
-/

namespace Sys2Proof.Machine

/-! ### setReg -/

@[simp] theorem State.setReg_v (s : State) (r : RegIdx) (b : Byte) : (s.setReg r b).v = s.v.set r.val b := rfl
@[simp] theorem State.setReg_i (s : State) (r : RegIdx) (b : Byte) : (s.setReg r b).i = s.i := rfl
@[simp] theorem State.setReg_pc (s : State) (r : RegIdx) (b : Byte) : (s.setReg r b).pc = s.pc := rfl
@[simp] theorem State.setReg_stack (s : State) (r : RegIdx) (b : Byte) : (s.setReg r b).stack = s.stack := rfl
@[simp] theorem State.setReg_sp (s : State) (r : RegIdx) (b : Byte) : (s.setReg r b).sp = s.sp := rfl
@[simp] theorem State.setReg_dt (s : State) (r : RegIdx) (b : Byte) : (s.setReg r b).dt = s.dt := rfl
@[simp] theorem State.setReg_st (s : State) (r : RegIdx) (b : Byte) : (s.setReg r b).st = s.st := rfl
@[simp] theorem State.setReg_mem (s : State) (r : RegIdx) (b : Byte) : (s.setReg r b).mem = s.mem := rfl
@[simp] theorem State.setReg_fb (s : State) (r : RegIdx) (b : Byte) : (s.setReg r b).fb = s.fb := rfl
@[simp] theorem State.setReg_key (s : State) (r : RegIdx) (b : Byte) : (s.setReg r b).key = s.key := rfl
@[simp] theorem State.setReg_draw (s : State) (r : RegIdx) (b : Byte) : (s.setReg r b).draw = s.draw := rfl
@[simp] theorem State.setReg_rndCount (s : State) (r : RegIdx) (b : Byte) : (s.setReg r b).rndCount = s.rndCount := rfl
@[simp] theorem State.setReg_params (s : State) (r : RegIdx) (b : Byte) : (s.setReg r b).params = s.params := rfl

/-! ### writeByte -/

@[simp] theorem State.writeByte_v (s : State) (a : Nat) (b : Byte) : (s.writeByte a b).v = s.v := rfl
@[simp] theorem State.writeByte_i (s : State) (a : Nat) (b : Byte) : (s.writeByte a b).i = s.i := rfl
@[simp] theorem State.writeByte_pc (s : State) (a : Nat) (b : Byte) : (s.writeByte a b).pc = s.pc := rfl
@[simp] theorem State.writeByte_stack (s : State) (a : Nat) (b : Byte) : (s.writeByte a b).stack = s.stack := rfl
@[simp] theorem State.writeByte_sp (s : State) (a : Nat) (b : Byte) : (s.writeByte a b).sp = s.sp := rfl
@[simp] theorem State.writeByte_dt (s : State) (a : Nat) (b : Byte) : (s.writeByte a b).dt = s.dt := rfl
@[simp] theorem State.writeByte_st (s : State) (a : Nat) (b : Byte) : (s.writeByte a b).st = s.st := rfl
@[simp] theorem State.writeByte_mem (s : State) (a : Nat) (b : Byte) : (s.writeByte a b).mem = s.mem.write s.params.font a b := rfl
@[simp] theorem State.writeByte_fb (s : State) (a : Nat) (b : Byte) : (s.writeByte a b).fb = s.fb := rfl
@[simp] theorem State.writeByte_key (s : State) (a : Nat) (b : Byte) : (s.writeByte a b).key = s.key := rfl
@[simp] theorem State.writeByte_draw (s : State) (a : Nat) (b : Byte) : (s.writeByte a b).draw = s.draw := rfl
@[simp] theorem State.writeByte_rndCount (s : State) (a : Nat) (b : Byte) : (s.writeByte a b).rndCount = s.rndCount := rfl
@[simp] theorem State.writeByte_params (s : State) (a : Nat) (b : Byte) : (s.writeByte a b).params = s.params := rfl

/-! ### advance -/

@[simp] theorem State.advance_v (s : State) : (s.advance).v = s.v := rfl
@[simp] theorem State.advance_i (s : State) : (s.advance).i = s.i := rfl
@[simp] theorem State.advance_pc (s : State) : (s.advance).pc = s.pc + 2 := rfl
@[simp] theorem State.advance_stack (s : State) : (s.advance).stack = s.stack := rfl
@[simp] theorem State.advance_sp (s : State) : (s.advance).sp = s.sp := rfl
@[simp] theorem State.advance_dt (s : State) : (s.advance).dt = s.dt := rfl
@[simp] theorem State.advance_st (s : State) : (s.advance).st = s.st := rfl
@[simp] theorem State.advance_mem (s : State) : (s.advance).mem = s.mem := rfl
@[simp] theorem State.advance_fb (s : State) : (s.advance).fb = s.fb := rfl
@[simp] theorem State.advance_key (s : State) : (s.advance).key = s.key := rfl
@[simp] theorem State.advance_draw (s : State) : (s.advance).draw = s.draw := rfl
@[simp] theorem State.advance_rndCount (s : State) : (s.advance).rndCount = s.rndCount := rfl
@[simp] theorem State.advance_params (s : State) : (s.advance).params = s.params := rfl

/-! ### skipIf -/

@[simp] theorem State.skipIf_v (s : State) (c : Bool) : (s.skipIf c).v = s.v := rfl
@[simp] theorem State.skipIf_i (s : State) (c : Bool) : (s.skipIf c).i = s.i := rfl
@[simp] theorem State.skipIf_pc (s : State) (c : Bool) : (s.skipIf c).pc = s.pc + (if c then 4 else 2) := rfl
@[simp] theorem State.skipIf_stack (s : State) (c : Bool) : (s.skipIf c).stack = s.stack := rfl
@[simp] theorem State.skipIf_sp (s : State) (c : Bool) : (s.skipIf c).sp = s.sp := rfl
@[simp] theorem State.skipIf_dt (s : State) (c : Bool) : (s.skipIf c).dt = s.dt := rfl
@[simp] theorem State.skipIf_st (s : State) (c : Bool) : (s.skipIf c).st = s.st := rfl
@[simp] theorem State.skipIf_mem (s : State) (c : Bool) : (s.skipIf c).mem = s.mem := rfl
@[simp] theorem State.skipIf_fb (s : State) (c : Bool) : (s.skipIf c).fb = s.fb := rfl
@[simp] theorem State.skipIf_key (s : State) (c : Bool) : (s.skipIf c).key = s.key := rfl
@[simp] theorem State.skipIf_draw (s : State) (c : Bool) : (s.skipIf c).draw = s.draw := rfl
@[simp] theorem State.skipIf_rndCount (s : State) (c : Bool) : (s.skipIf c).rndCount = s.rndCount := rfl
@[simp] theorem State.skipIf_params (s : State) (c : Bool) : (s.skipIf c).params = s.params := rfl

/-! ### jump -/

@[simp] theorem State.jump_v (s : State) (target : Word) : (s.jump target).v = s.v := rfl
@[simp] theorem State.jump_i (s : State) (target : Word) : (s.jump target).i = s.i := rfl
@[simp] theorem State.jump_pc (s : State) (target : Word) : (s.jump target).pc = target := rfl
@[simp] theorem State.jump_stack (s : State) (target : Word) : (s.jump target).stack = s.stack := rfl
@[simp] theorem State.jump_sp (s : State) (target : Word) : (s.jump target).sp = s.sp := rfl
@[simp] theorem State.jump_dt (s : State) (target : Word) : (s.jump target).dt = s.dt := rfl
@[simp] theorem State.jump_st (s : State) (target : Word) : (s.jump target).st = s.st := rfl
@[simp] theorem State.jump_mem (s : State) (target : Word) : (s.jump target).mem = s.mem := rfl
@[simp] theorem State.jump_fb (s : State) (target : Word) : (s.jump target).fb = s.fb := rfl
@[simp] theorem State.jump_key (s : State) (target : Word) : (s.jump target).key = s.key := rfl
@[simp] theorem State.jump_draw (s : State) (target : Word) : (s.jump target).draw = s.draw := rfl
@[simp] theorem State.jump_rndCount (s : State) (target : Word) : (s.jump target).rndCount = s.rndCount := rfl
@[simp] theorem State.jump_params (s : State) (target : Word) : (s.jump target).params = s.params := rfl

/-! ### tick -/

@[simp] theorem State.tick_v (s : State) : (s.tick).v = s.v := rfl
@[simp] theorem State.tick_i (s : State) : (s.tick).i = s.i := rfl
@[simp] theorem State.tick_pc (s : State) : (s.tick).pc = s.pc := rfl
@[simp] theorem State.tick_stack (s : State) : (s.tick).stack = s.stack := rfl
@[simp] theorem State.tick_sp (s : State) : (s.tick).sp = s.sp := rfl
@[simp] theorem State.tick_dt (s : State) : (s.tick).dt = tickTimer s.dt := rfl
@[simp] theorem State.tick_st (s : State) : (s.tick).st = tickTimer s.st := rfl
@[simp] theorem State.tick_mem (s : State) : (s.tick).mem = s.mem := rfl
@[simp] theorem State.tick_fb (s : State) : (s.tick).fb = s.fb := rfl
@[simp] theorem State.tick_key (s : State) : (s.tick).key = s.key := rfl
@[simp] theorem State.tick_draw (s : State) : (s.tick).draw = s.draw := rfl
@[simp] theorem State.tick_rndCount (s : State) : (s.tick).rndCount = s.rndCount := rfl
@[simp] theorem State.tick_params (s : State) : (s.tick).params = s.params := rfl

/-! ### writeKeys -/

@[simp] theorem State.writeKeys_v (s : State) (keys : Vector Bool 16) : (s.writeKeys keys).v = s.v := rfl
@[simp] theorem State.writeKeys_i (s : State) (keys : Vector Bool 16) : (s.writeKeys keys).i = s.i := rfl
@[simp] theorem State.writeKeys_pc (s : State) (keys : Vector Bool 16) : (s.writeKeys keys).pc = s.pc := rfl
@[simp] theorem State.writeKeys_stack (s : State) (keys : Vector Bool 16) : (s.writeKeys keys).stack = s.stack := rfl
@[simp] theorem State.writeKeys_sp (s : State) (keys : Vector Bool 16) : (s.writeKeys keys).sp = s.sp := rfl
@[simp] theorem State.writeKeys_dt (s : State) (keys : Vector Bool 16) : (s.writeKeys keys).dt = s.dt := rfl
@[simp] theorem State.writeKeys_st (s : State) (keys : Vector Bool 16) : (s.writeKeys keys).st = s.st := rfl
@[simp] theorem State.writeKeys_mem (s : State) (keys : Vector Bool 16) : (s.writeKeys keys).mem = s.mem := rfl
@[simp] theorem State.writeKeys_fb (s : State) (keys : Vector Bool 16) : (s.writeKeys keys).fb = s.fb := rfl
@[simp] theorem State.writeKeys_key (s : State) (keys : Vector Bool 16) : (s.writeKeys keys).key = keys := rfl
@[simp] theorem State.writeKeys_draw (s : State) (keys : Vector Bool 16) : (s.writeKeys keys).draw = s.draw := rfl
@[simp] theorem State.writeKeys_rndCount (s : State) (keys : Vector Bool 16) : (s.writeKeys keys).rndCount = s.rndCount := rfl
@[simp] theorem State.writeKeys_params (s : State) (keys : Vector Bool 16) : (s.writeKeys keys).params = s.params := rfl

/-! ### clearDraw -/

@[simp] theorem State.clearDraw_v (s : State) : (s.clearDraw).v = s.v := rfl
@[simp] theorem State.clearDraw_i (s : State) : (s.clearDraw).i = s.i := rfl
@[simp] theorem State.clearDraw_pc (s : State) : (s.clearDraw).pc = s.pc := rfl
@[simp] theorem State.clearDraw_stack (s : State) : (s.clearDraw).stack = s.stack := rfl
@[simp] theorem State.clearDraw_sp (s : State) : (s.clearDraw).sp = s.sp := rfl
@[simp] theorem State.clearDraw_dt (s : State) : (s.clearDraw).dt = s.dt := rfl
@[simp] theorem State.clearDraw_st (s : State) : (s.clearDraw).st = s.st := rfl
@[simp] theorem State.clearDraw_mem (s : State) : (s.clearDraw).mem = s.mem := rfl
@[simp] theorem State.clearDraw_fb (s : State) : (s.clearDraw).fb = s.fb := rfl
@[simp] theorem State.clearDraw_key (s : State) : (s.clearDraw).key = s.key := rfl
@[simp] theorem State.clearDraw_draw (s : State) : (s.clearDraw).draw = false := rfl
@[simp] theorem State.clearDraw_rndCount (s : State) : (s.clearDraw).rndCount = s.rndCount := rfl
@[simp] theorem State.clearDraw_params (s : State) : (s.clearDraw).params = s.params := rfl

/-! ### resetWith -/

@[simp] theorem State.resetWith_v (p : Config.Params) (n : Nat) : (State.resetWith p n).v = Vector.replicate 16 0 := rfl
@[simp] theorem State.resetWith_i (p : Config.Params) (n : Nat) : (State.resetWith p n).i = 0 := rfl
@[simp] theorem State.resetWith_pc (p : Config.Params) (n : Nat) : (State.resetWith p n).pc = resetPc := rfl
@[simp] theorem State.resetWith_stack (p : Config.Params) (n : Nat) : (State.resetWith p n).stack = Vector.replicate 16 0 := rfl
@[simp] theorem State.resetWith_sp (p : Config.Params) (n : Nat) : (State.resetWith p n).sp = 0 := rfl
@[simp] theorem State.resetWith_dt (p : Config.Params) (n : Nat) : (State.resetWith p n).dt = 0 := rfl
@[simp] theorem State.resetWith_st (p : Config.Params) (n : Nat) : (State.resetWith p n).st = 0 := rfl
@[simp] theorem State.resetWith_mem (p : Config.Params) (n : Nat) : (State.resetWith p n).mem = [] := rfl
@[simp] theorem State.resetWith_fb (p : Config.Params) (n : Nat) : (State.resetWith p n).fb = 0 := rfl
@[simp] theorem State.resetWith_key (p : Config.Params) (n : Nat) : (State.resetWith p n).key = Vector.replicate 16 false := rfl
@[simp] theorem State.resetWith_draw (p : Config.Params) (n : Nat) : (State.resetWith p n).draw = resetDraw := rfl
@[simp] theorem State.resetWith_rndCount (p : Config.Params) (n : Nat) : (State.resetWith p n).rndCount = n := rfl
@[simp] theorem State.resetWith_params (p : Config.Params) (n : Nat) : (State.resetWith p n).params = p := rfl

/-! ### Registers -/

/-- Read after write, the same register or another. -/
theorem State.reg_setReg (s : State) (r q : RegIdx) (b : Byte) :
    (s.setReg r b).reg q = if q = r then b else s.reg q := by
  simp only [State.reg, State.setReg, Vector.getElem_set]
  by_cases h : q = r
  · simp [h]
  · rw [if_neg h, if_neg (fun e => h (Fin.ext e.symm))]

@[simp] theorem State.reg_setReg_self (s : State) (r : RegIdx) (b : Byte) : (s.setReg r b).reg r = b := by
  simp [State.reg_setReg]

theorem State.reg_setReg_ne (s : State) {r q : RegIdx} (b : Byte) (h : q ≠ r) :
    (s.setReg r b).reg q = s.reg q := by
  simp [State.reg_setReg, h]

/-- A register reads alike in two states with the same register file. -/
theorem State.reg_congr {s t : State} (h : t.v = s.v) (r : RegIdx) : t.reg r = s.reg r := by
  simp [State.reg, h]

@[simp] theorem State.reg_writeByte (s : State) (a : Nat) (b : Byte) (r : RegIdx) :
    (s.writeByte a b).reg r = s.reg r := rfl

@[simp] theorem State.reg_advance (s : State) (r : RegIdx) : s.advance.reg r = s.reg r := rfl

@[simp] theorem State.reg_skipIf (s : State) (c : Bool) (r : RegIdx) : (s.skipIf c).reg r = s.reg r := rfl

@[simp] theorem State.reg_jump (s : State) (w : Word) (r : RegIdx) : (s.jump w).reg r = s.reg r := rfl

/-- After reset every register is 0 (R20). -/
@[simp] theorem State.reg_resetWith (p : Config.Params) (n : Nat) (r : RegIdx) :
    (State.resetWith p n).reg r = 0 := by
  simp [State.reg]

/-! ### Memory bytes -/

/-- A byte reads alike in two states with the same memory and the same parameters. -/
theorem State.readByte_congr {s t : State} (hm : t.mem = s.mem) (hp : t.params = s.params) (a : Nat) :
    t.readByte a = s.readByte a := by
  simp [State.readByte, hm, hp]

@[simp] theorem State.readByte_setReg (s : State) (r : RegIdx) (b : Byte) (a : Nat) :
    (s.setReg r b).readByte a = s.readByte a := rfl

@[simp] theorem State.readByte_advance (s : State) (a : Nat) : s.advance.readByte a = s.readByte a := rfl

@[simp] theorem State.readByte_skipIf (s : State) (c : Bool) (a : Nat) :
    (s.skipIf c).readByte a = s.readByte a := rfl

@[simp] theorem State.readByte_jump (s : State) (w : Word) (a : Nat) : (s.jump w).readByte a = s.readByte a := rfl

end Sys2Proof.Machine
end

