-- ==== Sys2Proof/Laws/Ops.lean ====
section
/-!
SUPPORT. One lemma per shared operation that says everything it can do; later proofs cite these and unfold no operation.
-/

namespace Sys2Proof.Machine

/-! ### Faults and checks -/

@[simp] theorem raise_ne_next (f : Fault) (t : State) : raise f ≠ .next t := by simp [raise]

@[simp] theorem raise_ne_refused (f : Fault) (r : Refusal) : raise f ≠ .refused r := by simp [raise]

/-- The check of R52 passes exactly when every address exists, and then the state is the one computed. -/
theorem checkedAccess_next {s s' t : State} {instr : Instr} {last : Nat} :
    s.checkedAccess instr last s' = .next t ↔ last ≤ 0xFFF ∧ s' = t := by
  unfold State.checkedAccess
  simp only [Config.lastAddr]
  split
  · simp only [raise_ne_next, false_iff]
    omega
  · rename_i h
    simp [Nat.le_of_not_lt h]

/-- The check of R52 faults exactly when the highest address does not exist. -/
theorem checkedAccess_fault {s s' : State} {instr : Instr} {last : Nat} {f : Fault} :
    s.checkedAccess instr last s' = .fault f ↔
      last > 0xFFF ∧ .memoryOutOfBounds s.pc (encode instr) last = f := by
  unfold State.checkedAccess
  simp only [Config.lastAddr]
  split
  · simp_all [raise]
  · simp only [reduceCtorEq, false_iff]
    omega

theorem checkedAccess_ne_refused (s s' : State) (instr : Instr) (last : Nat) (r : Refusal) :
    s.checkedAccess instr last s' ≠ .refused r := by
  unfold State.checkedAccess
  split <;> simp [raise]

/-! ### The call stack -/

/-- A push succeeds exactly with fewer than 16 entries in use (R27). -/
theorem push_eq_some {s t : State} {w : Word} :
    s.push w = some t ↔
      ∃ h : s.sp.val < 16, { s with stack := s.stack.set s.sp.val w, sp := ⟨s.sp.val + 1, by omega⟩ } = t := by
  unfold State.push
  split
  · rename_i h
    simp [h]
  · rename_i h
    simp [h]

theorem push_eq_none {s : State} {w : Word} : s.push w = none ↔ s.sp.val = 16 := by
  unfold State.push
  split
  · simp only [reduceCtorEq, false_iff]
    omega
  · simp only [true_iff]
    omega

/-- A pop succeeds exactly with an entry in use (R27). -/
theorem pop_eq_some {s t : State} {w : Word} :
    s.pop = some (w, t) ↔
      ∃ h : 0 < s.sp.val, s.stack[s.sp.val - 1]'(by omega) = w ∧ { s with sp := ⟨s.sp.val - 1, by omega⟩ } = t := by
  unfold State.pop
  split
  · rename_i h
    simp [h]
  · rename_i h
    simp [h]

theorem pop_eq_none {s : State} : s.pop = none ↔ s.sp.val = 0 := by
  unfold State.pop
  split
  · simp only [reduceCtorEq, false_iff]
    omega
  · simp only [true_iff]
    omega

/-! ### Memory bytes -/

/-- Read after write (R51). -/
theorem readByte_writeByte (s : State) {a : Nat} (ha : a < 0x1000) (b : Byte) (c : Nat) :
    (s.writeByte a b).readByte c = if c = a then b else s.readByte c :=
  Memory.read_write _ _ ha b c

/-- A byte other than the one written reads as before, whether the address exists or not. -/
theorem readByte_writeByte_ne (s : State) {a c : Nat} (h : c ≠ a) (b : Byte) :
    (s.writeByte a b).readByte c = s.readByte c := by
  by_cases ha : a < 0x1000
  · simp [readByte_writeByte s ha, h]
  · simp [State.readByte, Memory.write_of_not_lt ha]

/-- Writing bytes changes the memory and nothing else. -/
theorem writeBytes_eq (s : State) (a : Nat) (bytes : List Byte) :
    s.writeBytes a bytes = { s with mem := (s.writeBytes a bytes).mem } := by
  induction bytes generalizing s a with
  | nil => rfl
  | cons b rest ih =>
    rw [State.writeBytes, ih]
    rfl

@[simp] theorem writeBytes_v (s : State) (a : Nat) (bytes : List Byte) : (s.writeBytes a bytes).v = s.v := by
  rw [writeBytes_eq]

@[simp] theorem writeBytes_i (s : State) (a : Nat) (bytes : List Byte) : (s.writeBytes a bytes).i = s.i := by
  rw [writeBytes_eq]

@[simp] theorem writeBytes_pc (s : State) (a : Nat) (bytes : List Byte) : (s.writeBytes a bytes).pc = s.pc := by
  rw [writeBytes_eq]

@[simp] theorem writeBytes_stack (s : State) (a : Nat) (bytes : List Byte) :
    (s.writeBytes a bytes).stack = s.stack := by
  rw [writeBytes_eq]

@[simp] theorem writeBytes_sp (s : State) (a : Nat) (bytes : List Byte) : (s.writeBytes a bytes).sp = s.sp := by
  rw [writeBytes_eq]

@[simp] theorem writeBytes_dt (s : State) (a : Nat) (bytes : List Byte) : (s.writeBytes a bytes).dt = s.dt := by
  rw [writeBytes_eq]

@[simp] theorem writeBytes_st (s : State) (a : Nat) (bytes : List Byte) : (s.writeBytes a bytes).st = s.st := by
  rw [writeBytes_eq]

@[simp] theorem writeBytes_fb (s : State) (a : Nat) (bytes : List Byte) : (s.writeBytes a bytes).fb = s.fb := by
  rw [writeBytes_eq]

@[simp] theorem writeBytes_key (s : State) (a : Nat) (bytes : List Byte) : (s.writeBytes a bytes).key = s.key := by
  rw [writeBytes_eq]

@[simp] theorem writeBytes_draw (s : State) (a : Nat) (bytes : List Byte) :
    (s.writeBytes a bytes).draw = s.draw := by
  rw [writeBytes_eq]

@[simp] theorem writeBytes_rndCount (s : State) (a : Nat) (bytes : List Byte) :
    (s.writeBytes a bytes).rndCount = s.rndCount := by
  rw [writeBytes_eq]

@[simp] theorem writeBytes_params (s : State) (a : Nat) (bytes : List Byte) :
    (s.writeBytes a bytes).params = s.params := by
  rw [writeBytes_eq]

@[simp] theorem reg_writeBytes (s : State) (a : Nat) (bytes : List Byte) (r : RegIdx) :
    (s.writeBytes a bytes).reg r = s.reg r := by
  simp [State.reg]

/-- Every byte outside the bytes written reads as before. -/
theorem readByte_writeBytes_outside (s : State) (a : Nat) (bytes : List Byte) {c : Nat}
    (h : c < a ∨ a + bytes.length ≤ c) : (s.writeBytes a bytes).readByte c = s.readByte c := by
  induction bytes generalizing s a with
  | nil => rfl
  | cons b rest ih =>
    simp only [List.length_cons] at h
    rw [State.writeBytes, ih _ _ (by omega), readByte_writeByte_ne _ (by omega)]

/-- The bytes written read back, each at its address (R56). -/
theorem readByte_writeBytes_inside (s : State) (a : Nat) (bytes : List Byte)
    (hfit : a + bytes.length ≤ 0x1000) {k : Nat} (hk : k < bytes.length) :
    (s.writeBytes a bytes).readByte (a + k) = bytes[k] := by
  induction bytes generalizing s a k with
  | nil => simp at hk
  | cons b rest ih =>
    simp only [List.length_cons] at hfit hk
    rw [State.writeBytes]
    cases k with
    | zero =>
      rw [readByte_writeBytes_outside _ _ _ (by omega), readByte_writeByte _ (by omega)]
      simp
    | succ k =>
      rw [show a + (k + 1) = a + 1 + k by omega, ih _ _ (by omega) (by omega)]
      simp

/-- Writing bytes keeps the canonical form of the memory. -/
theorem wf_writeBytes {s : State} (hs : Memory.wf s.params.font s.mem) (a : Nat) (bytes : List Byte) :
    Memory.wf s.params.font (s.writeBytes a bytes).mem := by
  induction bytes generalizing s a with
  | nil => exact hs
  | cons b rest ih => exact ih (s := s.writeByte a b) (Memory.wf_write hs a b) (a + 1)

@[simp] theorem readBytes_length (s : State) (a n : Nat) : (s.readBytes a n).length = n := by
  induction n generalizing a with
  | zero => rfl
  | succ n ih => simp [State.readBytes, ih]

theorem readBytes_getElem (s : State) (a n k : Nat) (hk : k < n) :
    (s.readBytes a n)[k]'(by simpa using hk) = s.readByte (a + k) := by
  induction n generalizing a k with
  | zero => omega
  | succ n ih =>
    cases k with
    | zero => simp [State.readBytes]
    | succ k =>
      simp only [State.readBytes, List.getElem_cons_succ]
      rw [ih (a + 1) k (by omega)]
      congr 1
      omega

/-! ### Flags -/

/-- Writing a flag and a destination changes registers and nothing else. -/
theorem writeFlagAndDest_eq (s : State) (flag : Byte) (dest : RegIdx) (result : State → Byte) :
    s.writeFlagAndDest flag dest result = { s with v := (s.writeFlagAndDest flag dest result).v } := by
  unfold State.writeFlagAndDest
  split <;> rfl

/-- Registers other than VF and the destination are unchanged. -/
theorem reg_writeFlagAndDest_other (s : State) (flag : Byte) {dest r : RegIdx} (result : State → Byte)
    (hd : r ≠ dest) (hf : r ≠ VF) : (s.writeFlagAndDest flag dest result).reg r = s.reg r := by
  unfold State.writeFlagAndDest
  split <;> simp [State.reg_setReg, hd, hf]

/-- A destination other than VF: VF ends as the flag under both orders. -/
theorem reg_writeFlagAndDest_flag (s : State) (flag : Byte) {dest : RegIdx} (result : State → Byte)
    (hd : dest ≠ VF) : (s.writeFlagAndDest flag dest result).reg VF = flag := by
  unfold State.writeFlagAndDest
  split <;> simp [State.reg_setReg, hd.symm]

/-- A destination other than VF holds the result, read after the flag write or before it (R144). -/
theorem reg_writeFlagAndDest_dest (s : State) (flag : Byte) {dest : RegIdx} (result : State → Byte)
    (hd : dest ≠ VF) :
    (s.writeFlagAndDest flag dest result).reg dest =
      match s.params.vfOrder with
      | .asListed => result (s.setReg VF flag)
      | .flagLast => result s := by
  unfold State.writeFlagAndDest
  cases s.params.vfOrder <;> simp [State.reg_setReg, hd]

/-- Where VF is the destination, `asListed` leaves the result in it and `flagLast` the flag (R144). -/
theorem reg_writeFlagAndDest_vf (s : State) (flag : Byte) (result : State → Byte) :
    (s.writeFlagAndDest flag VF result).reg VF =
      match s.params.vfOrder with
      | .asListed => result (s.setReg VF flag)
      | .flagLast => flag := by
  unfold State.writeFlagAndDest
  cases s.params.vfOrder <;> simp

/-! ### The frame buffer -/

/-- A flip changes its own cell and no other. -/
theorem getLsbD_flipCell (fb : BitVec Config.fbCells) {k : Nat} (hk : k < Config.fbCells) (j : Nat) :
    (flipCell fb k).getLsbD j = (fb.getLsbD j ^^ decide (j = k)) := by
  have h1 : (1#Config.fbCells <<< k) = BitVec.twoPow Config.fbCells k := (BitVec.twoPow_eq _ _).symm
  rw [flipCell, BitVec.getLsbD_xor, h1, BitVec.getLsbD_twoPow]
  by_cases h : j = k
  · subst h
    simp [hk]
  · simp [h, Ne.symm h]

/-- The columns and rows of a sprite pixel always name a cell. -/
theorem cellIndex_lt {x y : Nat} (hx : x < Config.fbW) (hy : y < Config.fbH) : cellIndex x y < Config.fbCells := by
  simp only [cellIndex, Config.fbW, Config.fbH, Config.fbCells] at *
  omega

/-- Different pixels are different cells (R32). -/
theorem cellIndex_inj {x y x' y' : Nat} (hx : x < Config.fbW) (hx' : x' < Config.fbW) :
    cellIndex x y = cellIndex x' y' ↔ x = x' ∧ y = y' := by
  simp only [cellIndex, Config.fbW] at *
  constructor
  · intro h
    constructor <;> omega
  · rintro ⟨rfl, rfl⟩
    rfl

/-- One sprite pixel: a 1 bit flips its cell and adds the old cell to the collision, a 0 bit does nothing (R112). -/
theorem drawPixel_getLsbD (canvas : Canvas) (bit : Bool) {k : Nat} (hk : k < Config.fbCells) (j : Nat) :
    (drawPixel canvas bit k).1.getLsbD j = (canvas.1.getLsbD j ^^ (bit && decide (j = k))) := by
  cases bit <;> simp [drawPixel, getLsbD_flipCell _ hk]

theorem drawPixel_hit (canvas : Canvas) (bit : Bool) (k : Nat) :
    (drawPixel canvas bit k).2 = (canvas.2 || (bit && canvas.1.getLsbD k)) := by
  cases bit <;> simp [drawPixel]

/-! ### Fetch and decode -/

/-- Everything the first three stages of a step can do (R90 to R93). -/
theorem fetchDecode_cases (s : State) :
    (s.pc.toNat > 0xFFE ∧ s.fetchDecode = .error (.programCounterOutOfBounds s.pc)) ∨
    (s.pc.toNat ≤ 0xFFE ∧
      ((∃ instr, decode s.opcodeAtPc = .ok instr ∧ s.fetchDecode = .ok instr) ∨
       (∃ e, decode s.opcodeAtPc = .error e ∧ s.fetchDecode = .error (decodeFault s.pc s.opcodeAtPc e)))) := by
  by_cases h : s.pc.toNat > 0xFFE
  · exact .inl ⟨h, by simp [State.fetchDecode, h]⟩
  · refine .inr ⟨Nat.le_of_not_lt h, ?_⟩
    have hb : decodeBytes (s.readByte s.pc.toNat) (s.readByte (s.pc.toNat + 1)) = decode s.opcodeAtPc := rfl
    cases hd : decode s.opcodeAtPc with
    | ok instr => exact .inl ⟨instr, rfl, by simp [State.fetchDecode, h, hb, hd]⟩
    | error e => exact .inr ⟨e, rfl, by simp [State.fetchDecode, h, hb, hd]⟩

/-- A stored opcode is the one the next step fetches there (R53, R62). -/
theorem opcodeAtPc_writeOpcode (s : State) (w : Word) (h : s.pc.toNat ≤ 0xFFE) :
    (s.writeOpcode s.pc.toNat w).opcodeAtPc = w := by
  have hpc : (s.writeOpcode s.pc.toNat w).pc = s.pc := rfl
  have h0 : s.pc.toNat < 0x1000 := Nat.lt_of_le_of_lt h (by decide)
  have h1 : s.pc.toNat + 1 < 0x1000 := Nat.lt_of_le_of_lt (Nat.add_le_add_right h 1) (by decide)
  rw [State.opcodeAtPc, hpc, State.writeOpcode, readByte_writeByte_ne _ (by omega),
    readByte_writeByte _ h0, readByte_writeByte _ h1]
  simp

end Sys2Proof.Machine
end

