-- ==== Sys2Proof/Laws/PerInstr.lean ====
section
/-!
SUPPORT. Statements made per instruction. EncodeGroup: the high nibble of an instruction's opcode is that of its row of
the opcode map (spec/30_encoding.md R73, R74), whatever its operands.
-/

namespace Sys2Proof.Laws

/-- The high nibble of the opcode map's row (R74). -/
def EncodeGroup.nibble : Instr → Nat
  | .cls => 0x0
  | .ret => 0x0
  | .jp _ => 0x1
  | .call _ => 0x2
  | .seImm _ _ => 0x3
  | .sneImm _ _ => 0x4
  | .seReg _ _ => 0x5
  | .ldImm _ _ => 0x6
  | .addImm _ _ => 0x7
  | .ldReg _ _ => 0x8
  | .orReg _ _ => 0x8
  | .andReg _ _ => 0x8
  | .xorReg _ _ => 0x8
  | .addReg _ _ => 0x8
  | .sub _ _ => 0x8
  | .shr _ _ => 0x8
  | .subn _ _ => 0x8
  | .shl _ _ => 0x8
  | .sneReg _ _ => 0x9
  | .ldI _ => 0xA
  | .jpV0 _ => 0xB
  | .rnd _ _ => 0xC
  | .drw _ _ _ => 0xD
  | .skp _ => 0xE
  | .sknp _ => 0xE
  | .ldVxDt _ => 0xF
  | .ldVxKey _ => 0xF
  | .ldDtVx _ => 0xF
  | .ldStVx _ => 0xF
  | .addI _ => 0xF
  | .ldFont _ => 0xF
  | .ldBcd _ => 0xF
  | .storeRegs _ => 0xF
  | .loadRegs _ => 0xF

/-- The encoding of an instruction selects the instruction's own group. -/
def EncodeGroup.Statement (i : Instr) : Prop := fieldOp (encode i) = EncodeGroup.nibble i

theorem EncodeGroup.cls : EncodeGroup.Statement .cls := rfl

theorem EncodeGroup.ret : EncodeGroup.Statement .ret := rfl

theorem EncodeGroup.jp (nnn : Word) : EncodeGroup.Statement (.jp nnn) := fieldOp_formNNN _ nnn

theorem EncodeGroup.call (nnn : Word) : EncodeGroup.Statement (.call nnn) := fieldOp_formNNN _ nnn

theorem EncodeGroup.seImm (x : RegIdx) (nn : Byte) : EncodeGroup.Statement (.seImm x nn) := fieldOp_formXNN _ x nn

theorem EncodeGroup.sneImm (x : RegIdx) (nn : Byte) : EncodeGroup.Statement (.sneImm x nn) := fieldOp_formXNN _ x nn

theorem EncodeGroup.seReg (x y : RegIdx) : EncodeGroup.Statement (.seReg x y) := fieldOp_formXYN _ x y _

theorem EncodeGroup.ldImm (x : RegIdx) (nn : Byte) : EncodeGroup.Statement (.ldImm x nn) := fieldOp_formXNN _ x nn

theorem EncodeGroup.addImm (x : RegIdx) (nn : Byte) : EncodeGroup.Statement (.addImm x nn) := fieldOp_formXNN _ x nn

theorem EncodeGroup.ldReg (x y : RegIdx) : EncodeGroup.Statement (.ldReg x y) := fieldOp_formXYN _ x y _

theorem EncodeGroup.orReg (x y : RegIdx) : EncodeGroup.Statement (.orReg x y) := fieldOp_formXYN _ x y _

theorem EncodeGroup.andReg (x y : RegIdx) : EncodeGroup.Statement (.andReg x y) := fieldOp_formXYN _ x y _

theorem EncodeGroup.xorReg (x y : RegIdx) : EncodeGroup.Statement (.xorReg x y) := fieldOp_formXYN _ x y _

theorem EncodeGroup.addReg (x y : RegIdx) : EncodeGroup.Statement (.addReg x y) := fieldOp_formXYN _ x y _

theorem EncodeGroup.sub (x y : RegIdx) : EncodeGroup.Statement (.sub x y) := fieldOp_formXYN _ x y _

theorem EncodeGroup.shr (x y : RegIdx) : EncodeGroup.Statement (.shr x y) := fieldOp_formXYN _ x y _

theorem EncodeGroup.subn (x y : RegIdx) : EncodeGroup.Statement (.subn x y) := fieldOp_formXYN _ x y _

theorem EncodeGroup.shl (x y : RegIdx) : EncodeGroup.Statement (.shl x y) := fieldOp_formXYN _ x y _

theorem EncodeGroup.sneReg (x y : RegIdx) : EncodeGroup.Statement (.sneReg x y) := fieldOp_formXYN _ x y _

theorem EncodeGroup.ldI (nnn : Word) : EncodeGroup.Statement (.ldI nnn) := fieldOp_formNNN _ nnn

theorem EncodeGroup.jpV0 (nnn : Word) : EncodeGroup.Statement (.jpV0 nnn) := fieldOp_formNNN _ nnn

theorem EncodeGroup.rnd (x : RegIdx) (nn : Byte) : EncodeGroup.Statement (.rnd x nn) := fieldOp_formXNN _ x nn

theorem EncodeGroup.drw (x y : RegIdx) (n : Nat) : EncodeGroup.Statement (.drw x y n) := fieldOp_formXYN _ x y _

theorem EncodeGroup.skp (x : RegIdx) : EncodeGroup.Statement (.skp x) := fieldOp_formXNN _ x _

theorem EncodeGroup.sknp (x : RegIdx) : EncodeGroup.Statement (.sknp x) := fieldOp_formXNN _ x _

theorem EncodeGroup.ldVxDt (x : RegIdx) : EncodeGroup.Statement (.ldVxDt x) := fieldOp_formXNN _ x _

theorem EncodeGroup.ldVxKey (x : RegIdx) : EncodeGroup.Statement (.ldVxKey x) := fieldOp_formXNN _ x _

theorem EncodeGroup.ldDtVx (x : RegIdx) : EncodeGroup.Statement (.ldDtVx x) := fieldOp_formXNN _ x _

theorem EncodeGroup.ldStVx (x : RegIdx) : EncodeGroup.Statement (.ldStVx x) := fieldOp_formXNN _ x _

theorem EncodeGroup.addI (x : RegIdx) : EncodeGroup.Statement (.addI x) := fieldOp_formXNN _ x _

theorem EncodeGroup.ldFont (x : RegIdx) : EncodeGroup.Statement (.ldFont x) := fieldOp_formXNN _ x _

theorem EncodeGroup.ldBcd (x : RegIdx) : EncodeGroup.Statement (.ldBcd x) := fieldOp_formXNN _ x _

theorem EncodeGroup.storeRegs (x : RegIdx) : EncodeGroup.Statement (.storeRegs x) := fieldOp_formXNN _ x _

theorem EncodeGroup.loadRegs (x : RegIdx) : EncodeGroup.Statement (.loadRegs x) := fieldOp_formXNN _ x _

end Sys2Proof.Laws
end

