-- ==== Sys2Proof/Tests/Slice0.lean ====
section
/-!
SUPPORT. The model's own tests. Words are written out from the encodings of spec/30_encoding.md; expected results are the
vectors of spec/95_test_vectors.md (V<n>, W<n>) or the rules' own examples. Each runs one step, or one host operation.
Last, a concrete witness for the hypotheses of every statement that has some.
-/

namespace Sys2Proof.Tests

open Sys2Proof.Machine

/-! ### Helpers -/

/-- The outcome of one step from `s` with the opcode `w` at `pc`. -/
def stepOn (w : Nat) (s : State) : Result := step (s.withFetchWord 16 w)

/-- What a test looks at in the next state. -/
def seen {α : Type} (r : Result) (look : State → α) : Option α :=
  match r with
  | .next t => some (look t)
  | .fault _ => none
  | .refused _ => none

/-- The fault of an outcome. -/
def faultOf (r : Result) : Option Fault :=
  match r with
  | .next _ => none
  | .fault f => some f
  | .refused _ => none

/-- The reset state with two registers set. -/
def regs2 (a : RegIdx) (va : Byte) (b : RegIdx) (vb : Byte) : State := (State.reset.setReg a va).setReg b vb

/-- A state whose `P_VF_ORDER` is `FLAG_LAST`. -/
def flagLast (s : State) : State := { s with params := { s.params with vfOrder := .flagLast } }

/-! ### WellFormed: what each check refuses -/

theorem test_wf_jp_refuses_13_bits : (Instr.jp 0x1000#16).wellFormed = false := by decide
theorem test_wf_call_refuses_13_bits : (Instr.call 0x1000#16).wellFormed = false := by decide
theorem test_wf_ldI_refuses_16_bits : (Instr.ldI 0xFFFF#16).wellFormed = false := by decide
theorem test_wf_jpV0_refuses_13_bits : (Instr.jpV0 0x1000#16).wellFormed = false := by decide
theorem test_wf_drw_refuses_height_16 : (Instr.drw 0 0 16).wellFormed = false := by decide
theorem test_wf_accepts_the_bounds :
    (Instr.jp 0xFFF#16).wellFormed = true ∧ (Instr.drw 15 15 15).wellFormed = true := by decide
theorem test_programFits_bounds :
    programFits (List.replicate 3584 0) = true ∧ programFits (List.replicate 3585 0) = false := by
  simp only [programFits, List.length_replicate, Config.maxProgram]
  decide

/-! ### Decode: a word written out for every constructor (R74) -/

theorem test_decode_cls : decode 0b0000000011100000#16 = .ok .cls := by decide
theorem test_decode_ret : decode 0b0000000011101110#16 = .ok .ret := by decide
theorem test_decode_jp : decode 0b0001001000110100#16 = .ok (.jp 0x234#16) := by decide
theorem test_decode_call : decode 0b0010001000001010#16 = .ok (.call 0x20A#16) := by decide
theorem test_decode_seImm : decode 0b0011001101000010#16 = .ok (.seImm 3 0x42#8) := by decide
theorem test_decode_sneImm : decode 0b0100001101000010#16 = .ok (.sneImm 3 0x42#8) := by decide
theorem test_decode_seReg : decode 0b0101000100100000#16 = .ok (.seReg 1 2) := by decide
theorem test_decode_ldImm : decode 0b0110101010011100#16 = .ok (.ldImm 0xA 0x9C#8) := by decide
theorem test_decode_addImm : decode 0b0111000000000101#16 = .ok (.addImm 0 0x05#8) := by decide
theorem test_decode_ldReg : decode 0b1000000000010000#16 = .ok (.ldReg 0 1) := by decide
theorem test_decode_orReg : decode 0b1000000000010001#16 = .ok (.orReg 0 1) := by decide
theorem test_decode_andReg : decode 0b1000000000010010#16 = .ok (.andReg 0 1) := by decide
theorem test_decode_xorReg : decode 0b1000000000010011#16 = .ok (.xorReg 0 1) := by decide
theorem test_decode_addReg : decode 0b1000000000010100#16 = .ok (.addReg 0 1) := by decide
theorem test_decode_sub : decode 0b1000101010110101#16 = .ok (.sub 0xA 0xB) := by decide
theorem test_decode_shr : decode 0b1000001000110110#16 = .ok (.shr 2 3) := by decide
theorem test_decode_subn : decode 0b1000000100100111#16 = .ok (.subn 1 2) := by decide
theorem test_decode_shl : decode 0b1000001000001110#16 = .ok (.shl 2 0) := by decide
theorem test_decode_sneReg : decode 0b1001000100100000#16 = .ok (.sneReg 1 2) := by decide
theorem test_decode_ldI : decode 0b1010001100000000#16 = .ok (.ldI 0x300#16) := by decide
theorem test_decode_jpV0 : decode 0b1011001100000000#16 = .ok (.jpV0 0x300#16) := by decide
theorem test_decode_rnd : decode 0b1100001100001111#16 = .ok (.rnd 3 0x0F#8) := by decide
theorem test_decode_drw : decode 0b1101000000010101#16 = .ok (.drw 0 1 5) := by decide
theorem test_decode_skp : decode 0b1110000110011110#16 = .ok (.skp 1) := by decide
theorem test_decode_sknp : decode 0b1110000110100001#16 = .ok (.sknp 1) := by decide
theorem test_decode_ldVxDt : decode 0b1111001000000111#16 = .ok (.ldVxDt 2) := by decide
theorem test_decode_ldVxKey : decode 0b1111001100001010#16 = .ok (.ldVxKey 3) := by decide
theorem test_decode_ldDtVx : decode 0b1111000000010101#16 = .ok (.ldDtVx 0) := by decide
theorem test_decode_ldStVx : decode 0b1111000000011000#16 = .ok (.ldStVx 0) := by decide
theorem test_decode_addI : decode 0b1111010000011110#16 = .ok (.addI 4) := by decide
theorem test_decode_ldFont : decode 0b1111000000101001#16 = .ok (.ldFont 0) := by decide
theorem test_decode_ldBcd : decode 0b1111010100110011#16 = .ok (.ldBcd 5) := by decide
theorem test_decode_storeRegs : decode 0b1111000101010101#16 = .ok (.storeRegs 1) := by decide
theorem test_decode_loadRegs : decode 0b1111001001100101#16 = .ok (.loadRegs 2) := by decide

/-- V5 to V14. -/
theorem test_decode_illegal :
    [0x0000#16, 0x01E0#16, 0x00E1#16, 0x8128#16, 0x812F#16, 0xE19F#16, 0xF0FF#16, 0xF00B#16].map decode =
      List.replicate 8 (.error .unknownOpcode) ∧
    [0x5121#16, 0x9AB1#16].map decode = List.replicate 2 (.error .malformedOperand) := by decide
theorem test_bytes_are_big_endian : decodeBytes 0x60#8 0x0A#8 = .ok (.ldImm 0 0x0A#8) := by decide
theorem test_table_word : decodeTableWord 16 0x8127 = some (.subn 1 2) ∧ decodeTableWord 16 0x9AB1 = none := by decide

/-! ### The step -/

/-- V1: the last fetchable address. -/
theorem test_step_at_ffe :
    seen (stepOn 0x6011 { State.reset with pc := 0xFFE#16 }) (fun t => (t.reg 0, t.pc)) =
      some (0x11#8, 0x1000#16) := by decide
/-- V3. -/
theorem test_step_at_fff :
    faultOf (step { State.reset with pc := 0xFFF#16 }) = some (.programCounterOutOfBounds 0xFFF#16) := by decide
/-- V4: an odd pc fetches. -/
theorem test_step_at_odd_pc :
    seen (stepOn 0x6A55 { State.reset with pc := 0x201#16 }) (fun t => (t.reg 0xA, t.pc)) =
      some (0x55#8, 0x203#16) := by decide
/-- V5: empty memory at reset decodes to no instruction. -/
theorem test_step_from_bare_reset :
    faultOf (step State.reset) = some (.unknownOpcode 0x200#16 0x0000#16) := by decide

/-! ### Display -/

/-- V20. -/
theorem test_cls :
    seen (stepOn 0x00E0 { State.reset with fb := BitVec.allOnes 2048, draw := false }) (fun t => (t.fb, t.draw)) =
      some (0, true) := by decide +kernel
/-- V22: a sprite that wraps at both edges. -/
theorem test_drw_wraps :
    seen (stepOn 0xD012 ({ regs2 0 0x3E 1 0x1F with i := 0x300#16 }.writeBytes 0x300 [0xFF, 0x80]))
      (fun t => ([2046, 2047, 1984, 1989, 62].map t.cell, t.readFb.count true, t.reg VF)) =
      some ([true, true, true, true, true], 9, 0#8) := by decide +kernel
/-- V26: X = F uses the old VF; then VF is the collision flag. -/
theorem test_drw_reads_old_vf :
    seen (stepOn 0xDF11 ({ regs2 0xF 5 1 0 with i := 0x300#16 }.writeByte 0x300 0x80))
      (fun t => (t.cell 5, t.reg VF)) = some (true, 0#8) := by decide +kernel

/-! ### Control transfer -/

/-- V40. -/
theorem test_ret :
    seen (stepOn 0x00EE { State.reset with sp := 1, stack := State.reset.stack.set 0 0x204#16 })
      (fun t => (t.sp, t.pc, t.stack[0])) = some (0, 0x206#16, 0x204#16) := by decide
/-- V41. -/
theorem test_ret_underflow :
    faultOf (stepOn 0x00EE State.reset) = some (.stackUnderflow 0x200#16 0x00EE#16) := by decide
/-- V42. -/
theorem test_jp : seen (stepOn 0x1234 State.reset) State.pc = some 0x234#16 := by decide
/-- V46: the sixteenth nested call. -/
theorem test_call_sixteenth :
    seen (stepOn 0x220A { State.reset with pc := 0x204#16, sp := 15 }) (fun t => (t.stack[15], t.sp, t.pc)) =
      some (0x204#16, 16, 0x20A#16) := by decide
/-- V47. -/
theorem test_call_overflow :
    faultOf (stepOn 0x220A { State.reset with sp := 16 }) = some (.stackOverflow 0x200#16 0x220A#16) := by decide
/-- V48, V49. -/
theorem test_seImm :
    seen (stepOn 0x3342 (regs2 3 0x42 0 0)) State.pc = some 0x204#16 ∧
    seen (stepOn 0x3342 (regs2 3 0x41 0 0)) State.pc = some 0x202#16 := by decide
/-- V50, V51. -/
theorem test_sneImm :
    seen (stepOn 0x4342 (regs2 3 0x41 0 0)) State.pc = some 0x204#16 ∧
    seen (stepOn 0x4342 (regs2 3 0x42 0 0)) State.pc = some 0x202#16 := by decide
/-- V52, V53. -/
theorem test_seReg :
    seen (stepOn 0x5120 (regs2 1 7 2 7)) State.pc = some 0x204#16 ∧
    seen (stepOn 0x5120 (regs2 1 7 2 8)) State.pc = some 0x202#16 := by decide
/-- V55, V56. -/
theorem test_sneReg :
    seen (stepOn 0x9120 (regs2 1 7 2 8)) State.pc = some 0x204#16 ∧
    seen (stepOn 0x9110 (regs2 1 7 2 8)) State.pc = some 0x202#16 := by decide
/-- V59: the sum is not reduced modulo 4096. -/
theorem test_jpV0 : seen (stepOn 0xBFFF (regs2 0 0xFF 1 0)) State.pc = some 0x10FE#16 := by decide

/-! ### Registers and arithmetic -/

/-- V70. -/
theorem test_ldImm : seen (stepOn 0x6A9C State.reset) (State.reg · 0xA) = some 0x9C#8 := by decide
/-- V71: wraps, and VF keeps its value. -/
theorem test_addImm_wraps :
    seen (stepOn 0x7001 (regs2 0 0xFF 0xF 0x55)) (fun t => (t.reg 0, t.reg VF)) = some (0x00#8, 0x55#8) := by decide
/-- V73. -/
theorem test_ldReg : seen (stepOn 0x8010 (regs2 1 0x33 0 0)) (State.reg · 0) = some 0x33#8 := by decide
/-- V74. -/
theorem test_orReg : seen (stepOn 0x8011 (regs2 0 0x0F 1 0xF0)) (State.reg · 0) = some 0xFF#8 := by decide
/-- V75. -/
theorem test_andReg : seen (stepOn 0x8012 (regs2 0 0x3C 1 0x0F)) (State.reg · 0) = some 0x0C#8 := by decide
/-- V76. -/
theorem test_xorReg : seen (stepOn 0x8013 (regs2 0 0x3C 1 0x0F)) (State.reg · 0) = some 0x33#8 := by decide
/-- V78. -/
theorem test_addReg_carry :
    seen (stepOn 0x8014 (regs2 0 0xFF 1 0x01)) (fun t => (t.reg 0, t.reg VF)) = some (0x00#8, 1#8) := by decide
/-- V82: X = F, the carry wins. -/
theorem test_addReg_into_vf :
    seen (stepOn 0x8F14 (regs2 0xF 0x10 1 0xF5)) (State.reg · VF) = some 1#8 := by decide
/-- W3, V84. -/
theorem test_sub_wraps :
    seen (stepOn 0x8AB5 (regs2 0xA 5 0xB 10)) (fun t => (t.reg 0xA, t.reg VF)) = some (251#8, 0#8) := by decide
/-- V88, both orders. -/
theorem test_sub_into_vf :
    seen (stepOn 0x8F15 (regs2 0xF 0x0A 1 3)) (State.reg · VF) = some 0xFE#8 ∧
    seen (stepOn 0x8F15 (flagLast (regs2 0xF 0x0A 1 3))) (State.reg · VF) = some 1#8 := by decide
/-- V92: Y is ignored. -/
theorem test_shr :
    seen (stepOn 0x8236 (regs2 2 4 3 0xFF)) (fun t => (t.reg 2, t.reg VF, t.reg 3)) =
      some (2#8, 0#8, 0xFF#8) := by decide
/-- V94, both orders. -/
theorem test_shr_vf :
    seen (stepOn 0x8F06 (regs2 0xF 3 0 0)) (State.reg · VF) = some 0#8 ∧
    seen (stepOn 0x8F06 (flagLast (regs2 0xF 3 0 0))) (State.reg · VF) = some 1#8 := by decide
/-- V95: the destination is V[Y]. -/
theorem test_subn_writes_vy :
    seen (stepOn 0x8127 (regs2 1 3 2 10)) (fun t => (t.reg 2, t.reg 1, t.reg VF)) = some (7#8, 3#8, 1#8) := by decide
/-- V98, both orders. -/
theorem test_subn_vf_operand :
    seen (stepOn 0x8F27 (regs2 0xF 3 2 0x0A)) (State.reg · 2) = some 9#8 ∧
    seen (stepOn 0x8F27 (flagLast (regs2 0xF 3 2 0x0A))) (State.reg · 2) = some 7#8 := by decide
/-- V100. -/
theorem test_shl :
    seen (stepOn 0x820E (regs2 2 0x81 0 0)) (fun t => (t.reg 2, t.reg VF)) = some (2#8, 1#8) := by decide
/-- V103, both orders. -/
theorem test_shl_vf :
    seen (stepOn 0x8F0E (regs2 0xF 0x80 0 0)) (State.reg · VF) = some 2#8 ∧
    seen (stepOn 0x8F0E (flagLast (regs2 0xF 0x80 0 0))) (State.reg · VF) = some 1#8 := by decide
/-- V106: whatever the draw is, a mask of 0 gives 0. -/
theorem test_rnd_mask_zero : seen (stepOn 0xC300 (regs2 3 0xFF 0 0)) (State.reg · 3) = some 0#8 := by
  rw [show stepOn 0xC300 (regs2 3 0xFF 0 0) = exec (.rnd 3 0) ((regs2 3 0xFF 0 0).withFetchWord 16 0xC300) from rfl]
  simp [exec, execRnd, seen]

/-! ### Index register and memory -/

/-- V120. -/
theorem test_ldI : seen (stepOn 0xAFFF State.reset) State.i = some 0x0FFF#16 := by decide
/-- V122, V123: not 12 bits, but 16. -/
theorem test_addI_wraps :
    seen (stepOn 0xF01E { regs2 0 1 1 0 with i := 0x0FFF#16 }) State.i = some 0x1000#16 ∧
    seen (stepOn 0xF01E { regs2 0 2 1 0 with i := 0xFFFF#16 }) State.i = some 0x0001#16 := by decide
/-- V124, V127. -/
theorem test_ldFont :
    seen (stepOn 0xF029 (regs2 0 0x0A 1 0)) State.i = some 0x0082#16 ∧
    seen (stepOn 0xF029 (regs2 0 0xFF 1 0)) State.i = some 0x054B#16 := by decide
/-- V128. -/
theorem test_ldBcd :
    seen (stepOn 0xF533 { regs2 5 0x9C 0 0 with i := 0x300#16 }) (fun t => t.readBytes 0x300 3) =
      some [1#8, 5#8, 6#8] := by decide
/-- V133. -/
theorem test_ldBcd_out_of_bounds :
    faultOf (stepOn 0xF533 { regs2 5 7 0 0 with i := 0xFFE#16 }) =
      some (.memoryOutOfBounds 0x200#16 0xF533#16 0x1000) := by decide
/-- V134. -/
theorem test_storeRegs :
    seen (stepOn 0xF155 { regs2 0 1 1 2 with i := 0x400#16 }) (fun t => (t.readBytes 0x400 3, t.i)) =
      some ([1#8, 2#8, 0#8], 0x400#16) := by decide
/-- V136. -/
theorem test_storeRegs_out_of_bounds :
    faultOf (stepOn 0xFF55 { State.reset with i := 0xFF1#16 }) =
      some (.memoryOutOfBounds 0x200#16 0xFF55#16 0x1000) := by decide
/-- V137. -/
theorem test_loadRegs :
    seen (stepOn 0xF265 ({ regs2 3 9 0 0 with i := 0x300#16 }.writeBytes 0x300 [1, 5, 6, 7]))
      (fun t => (t.reg 0, t.reg 1, t.reg 2, t.reg 3)) = some (1#8, 5#8, 6#8, 9#8) := by decide
/-- V139. -/
theorem test_loadRegs_out_of_bounds :
    faultOf (stepOn 0xF165 { State.reset with i := 0xFFF#16 }) =
      some (.memoryOutOfBounds 0x200#16 0xF165#16 0x1000) := by decide
/-- A write of the reset contents over an entry removes it: equal memories are equal lists. -/
theorem test_memory_canonical :
    ((State.reset.writeBytes 0x050 [1, 2]).writeBytes 0x050 [0xF0, 0x90]).mem = [] := by decide

/-! ### Keys and timers -/

/-- The reset state with keys 7 and 9 pressed. -/
def keys79 (s : State) : State := { s with key := (s.key.set 7 true).set 9 true }

/-- V150, V151. -/
theorem test_skp :
    seen (stepOn 0xE19E (keys79 (regs2 1 7 0 0))) State.pc = some 0x204#16 ∧
    seen (stepOn 0xE19E (keys79 (regs2 1 5 0 0))) State.pc = some 0x202#16 := by decide
/-- V154. -/
theorem test_skp_index_16 :
    faultOf (stepOn 0xE19E (regs2 1 0x10 0 0)) =
      some (.keyIndexOutOfBounds 0x200#16 0xE19E#16 0x10#8) := by decide
/-- V152, V153. -/
theorem test_sknp :
    seen (stepOn 0xE1A1 (keys79 (regs2 1 5 0 0))) State.pc = some 0x204#16 ∧
    seen (stepOn 0xE1A1 (keys79 (regs2 1 7 0 0))) State.pc = some 0x202#16 := by decide
/-- V155. -/
theorem test_sknp_index_255 :
    faultOf (stepOn 0xE1A1 (regs2 1 0xFF 0 0)) =
      some (.keyIndexOutOfBounds 0x200#16 0xE1A1#16 0xFF#8) := by decide
/-- V156. -/
theorem test_ldVxDt : seen (stepOn 0xF207 { State.reset with dt := 0x3C#8 }) (State.reg · 2) = some 0x3C#8 := by decide
/-- V157. -/
theorem test_ldVxKey_waits :
    seen (stepOn 0xF30A State.reset) (fun t => decide (t = State.reset.withFetchWord 16 0xF30A)) = some true := by
  decide +kernel
/-- V158. -/
theorem test_ldVxKey_least :
    seen (stepOn 0xF30A (keys79 State.reset)) (fun t => (t.reg 3, t.pc)) = some (7#8, 0x202#16) := by decide
/-- V160. -/
theorem test_ldDtVx : seen (stepOn 0xF015 (regs2 0 3 1 0)) State.dt = some 3#8 := by decide
/-- V161. -/
theorem test_ldStVx : seen (stepOn 0xF018 (regs2 0 3 1 0)) State.st = some 3#8 := by decide

/-! ### Host operations -/

/-- V163, V164. -/
theorem test_tick :
    (State.tick { State.reset with dt := 0, st := 5 }).st = 4#8 ∧
    (State.tick { State.reset with dt := 0, st := 5 }).dt = 0#8 ∧
    (State.tick { State.reset with dt := 0xFF, st := 0xFF }).dt = 0xFE#8 := by decide
/-- V170, W5: the font is in place after reset. -/
theorem test_reset_font :
    State.reset.readBytes 0x04F 7 = [0#8, 0xF0#8, 0x90#8, 0x90#8, 0x90#8, 0xF0#8, 0x20#8] ∧
    State.reset.readBytes 0x09E 3 = [0x80#8, 0x80#8, 0#8] := by decide
/-- V171, W1: a loaded program lies at 0x200. -/
theorem test_load :
    seen (State.load (regs2 0 9 1 9) [0x60, 0x0A, 0x70, 0x05]) (fun t => (t.opcodeAtPc, t.pc, t.reg 0)) =
      some (0x600A#16, 0x200#16, 0#8) := by decide
/-- V172. -/
theorem test_load_too_large (s : State) :
    faultOf (s.load (List.replicate 3585 0)) = some (.loadTooLarge 3585) := by
  simp only [State.load, programFits, List.length_replicate, Config.maxProgram]
  rfl
/-- V174. -/
theorem test_clear_draw : reply .readDraw State.reset.clearDraw = .flag false := by decide

/-! ### Laws the model rests on -/

theorem test_reset_memory_wf : Memory.wf State.reset.params.font State.reset.mem := Memory.wf_nil _

/-! ### Witnesses: for every statement with hypotheses, a concrete state and operands that meet them all -/

/-- The reset state with an opcode at `pc`. -/
def bare (w : Nat) : State := State.reset.withFetchWord 16 w

/-- A state whose DXYN draws the byte 0x80 at `I` = 0xFFF, the last byte of memory. -/
def atLastByte : State := { State.reset with i := 0xFFF#16 }.writeByte 0xFFF 0x80

theorem witness_DecodeOfEncodeIsTheInstruction :
    (Instr.jp 0xFFF#16).wellFormed = true ∧ (Instr.drw 15 15 15).wellFormed = true := by decide

theorem witness_DecodedWordIsItsEncoding : decode 0x8FF6#16 = .ok (.shr 15 15) := by decide

theorem witness_IllegalOpcodes_malformed :
    (bare 0x5001).pc.toNat ≤ 0xFFE ∧ Claims.isMalformed (bare 0x5001).opcodeAtPc.toNat ∧
    Claims.isMalformed (bare 0x9FFF).opcodeAtPc.toNat := by decide
theorem witness_IllegalOpcodes_unknown :
    (bare 0x0000).pc.toNat ≤ 0xFFE ∧ Claims.isUnknown (bare 0x00E1).opcodeAtPc.toNat ∧
    Claims.isUnknown (bare 0x8008).opcodeAtPc.toNat ∧ Claims.isUnknown (bare 0xE09F).opcodeAtPc.toNat ∧
    Claims.isUnknown (bare 0xF066).opcodeAtPc.toNat := by decide
theorem witness_IllegalOpcodes_legal :
    (bare 0xF065).pc.toNat ≤ 0xFFE ∧ ¬ Claims.isMalformed (bare 0xF065).opcodeAtPc.toNat ∧
    ¬ Claims.isUnknown (bare 0xF065).opcodeAtPc.toNat := by decide

theorem witness_StepRuns_out_of_bounds : ({ State.reset with pc := 0xFFF#16 } : State).pc.toNat > 0xFFE := by decide
theorem witness_StepRuns_decoded :
    ({ bare 0 with pc := 0xFFE#16 }.withFetchWord 16 0x6011).pc.toNat ≤ 0xFFE ∧
    decode (({ bare 0 with pc := 0xFFE#16 }.withFetchWord 16 0x6011).readByte 0xFFE ++
      ({ bare 0 with pc := 0xFFE#16 }.withFetchWord 16 0x6011).readByte 0xFFF) = .ok (.ldImm 0 0x11#8) := by decide
theorem witness_StepRuns_decode_errors :
    decode ((bare 0).readByte 0x200 ++ (bare 0).readByte 0x201) = .error .unknownOpcode ∧
    decode ((bare 0x5001).readByte 0x200 ++ (bare 0x5001).readByte 0x201) = .error .malformedOperand := by decide

theorem witness_InstructionsWithoutCheckComplete : Claims.hasNoCheck .cls = true := rfl

theorem witness_StepFaultRecordNamesPcAndOpcode : step (bare 0) = .fault (.unknownOpcode 0x200#16 0#16) := rfl
theorem witness_StepFaultRecord_pc :
    step { State.reset with pc := 0xFFF#16 } = .fault (.programCounterOutOfBounds 0xFFF#16) := rfl

theorem witness_PcUpdateFollowsTheTable :
    ({ State.reset with pc := 0xFFE#16 } : State).Inv ∧ ({ State.reset with pc := 0xFFE#16 } : State).pc.toNat ≤ 0xFFE ∧
    (Instr.seImm 0 0).wellFormed = true ∧ ∃ t, exec (.seImm 0 0) { State.reset with pc := 0xFFE#16 } = .next t :=
  ⟨by decide, by decide, rfl, _, rfl⟩

theorem witness_InstructionsWriteOnlyTheirOwnState : ∃ t, exec (.loadRegs 15) State.reset = .next t :=
  ⟨_, rfl⟩

theorem witness_DrawFlagAndSoundTimerAreNotRead : ∃ t, step (bare 0xF018) = .next t := ⟨_, rfl⟩

theorem witness_StepKeepsTheInvariant : (bare 0x2204).Inv ∧ ∃ t, step (bare 0x2204) = .next t := ⟨by decide, _, rfl⟩

theorem witness_EveryHostScheduleKeepsTheInvariant : (bare 0x00E0).Inv := by decide

theorem witness_CanonicalMemoriesReadingAlikeAreEqual :
    Memory.wf conventionalFont [(0x04F, 1#8), (0x050, 2#8), (0xFFF, 3#8)] := by decide

theorem witness_FaultingOperationChangesNoState :
    perform .step (bare 0) = .fault (.unknownOpcode 0x200#16 0#16) := rfl
theorem witness_FaultingOperation_load :
    perform (.load (List.replicate 3585 0)) State.reset = .fault (.loadTooLarge 3585) := by
  simp only [perform, State.load, programFits, List.length_replicate, Config.maxProgram]
  rfl

theorem witness_FaultRepeatsUntilResetOrLoad :
    step (bare 0) = .fault (.unknownOpcode 0x200#16 0#16) ∧
    ∀ op ∈ [HostOp.tick, .writeKeys (Vector.replicate 16 true), .step, .clearDraw], op.startsRun = false :=
  ⟨rfl, by decide⟩

theorem witness_SelfJumpChangesNoState : (bare 0x1200).selfJump := rfl

theorem witness_Drw_height_zero : (0#4).toNat = 0 := rfl
theorem witness_Drw_last_byte : atLastByte.i.toNat + (1#4).toNat - 1 ≤ 0xFFF := by decide
theorem witness_DrwBeyondMemoryFaults : (2#4).toNat > 0 ∧ atLastByte.i.toNat + (2#4).toNat - 1 > 0xFFF := by decide

/-- The state after the first draw of the witness for drawing twice. -/
def drawnOnce : State :=
  ({ atLastByte with fb := (atLastByte.drawSprite 0 1 1).1, draw := true }.setReg VF
    (flagByte (atLastByte.drawSprite 0 1 1).2)).advance

theorem witness_DrawingTwiceRestoresTheFrameBuffer :
    1 ≤ 15 ∧ exec (.drw 0 1 1) atLastByte = .next drawnOnce ∧
    (drawnOnce.reg 0).toNat % 64 = (atLastByte.reg 0).toNat % 64 ∧
    (drawnOnce.reg 1).toNat % 32 = (atLastByte.reg 1).toNat % 32 ∧ ∃ u, exec (.drw 0 1 1) drawnOnce = .next u :=
  ⟨by decide, (checkedAccess_next (s := atLastByte) (instr := .drw 0 1 1) (last := 0xFFF)).mpr ⟨by decide, rfl⟩,
    rfl, rfl, _, (checkedAccess_next (s := drawnOnce) (instr := .drw 0 1 1) (last := 0xFFF)).mpr ⟨by decide, rfl⟩⟩

theorem witness_Call_fifteen : ({ State.reset with sp := 15 } : State).sp.val < 16 := by decide
theorem witness_Call_sixteen : ({ State.reset with sp := 16 } : State).sp.val = 16 := rfl

theorem witness_Ret_sixteen :
    ({ State.reset with sp := 16 } : State).sp.val > 0 ∧
    ({ State.reset with sp := 16 } : State).stack[15]? = some 0#16 := by decide
theorem witness_Ret_zero : State.reset.sp.val = 0 := rfl

theorem witness_ReturnComesBackAfterTheCall :
    ∃ t, exec (.call 0x300#16) State.reset = .next t ∧ (t.setReg 0 7).stack = t.stack ∧ (t.setReg 0 7).sp = t.sp :=
  ⟨_, rfl, rfl, rfl⟩

theorem witness_SkipsOnTwoRegisters_malformed : (0xF#4) ≠ 0 := by decide

theorem witness_AddRegister_not_vf : (0xE#4) ≠ 0xF#4 := by decide

/-- One state per order of `P_VF_ORDER`; the fields 0xE and 0xF meet each case of 8XY5, 8XY6, 8XY7 and 8XYE. -/
theorem witness_VfCases :
    (0xE#4) ≠ 0xF#4 ∧ (0xF#4) = 0xF#4 ∧ (regs2 0xF 3 0xE 10).params.vfOrder = .asListed ∧
    (flagLast (regs2 0xF 3 0xE 10)).params.vfOrder = .flagLast ∧
    (10 : Nat) = ((regs2 0xF 3 0xE 10).reg (0xE#4).toFin).toNat ∧
    (3 : Nat) = ((regs2 0xF 3 0xE 10).reg (0xF#4).toFin).toNat ∧ (1 : Nat) = (if 10 > 3 then 1 else 0) := by decide

theorem witness_VfOrderMattersOnlyWhereAFieldNamesVf :
    ¬ Claims.namesVf (.sub 14 0) ∧ (flagLast State.reset).params.font = State.reset.params.font ∧
    ∃ t, exec (.sub 14 0) State.reset = .next t :=
  ⟨by simp [Claims.namesVf, VF], rfl, _, rfl⟩
theorem witness_VfOrderMatters_fault :
    ¬ Claims.namesVf .ret ∧ exec .ret State.reset = .fault (.stackUnderflow 0x200#16 0x00EE#16) :=
  ⟨id, rfl⟩

theorem witness_Bcd_bounds :
    ({ State.reset with i := 0xFFD#16 } : State).i.toNat + 2 ≤ 0xFFF ∧
    ({ State.reset with i := 0xFFE#16 } : State).i.toNat + 2 > 0xFFF := by decide
theorem witness_StoreAndLoad_bounds :
    ({ State.reset with i := 0xFF0#16 } : State).i.toNat + (0xF#4).toNat ≤ 0xFFF ∧
    ({ State.reset with i := 0xFF1#16 } : State).i.toNat + (0xF#4).toNat > 0xFFF := by decide

theorem witness_LoadAfterStoreRestoresRegisters :
    ∃ t, exec (.storeRegs 15) { State.reset with i := 0xFF0#16 } = .next t :=
  ⟨_, (checkedAccess_next (s := { State.reset with i := 0xFF0#16 }) (instr := .storeRegs 15)
    (last := 0xFFF)).mpr ⟨by decide, rfl⟩⟩

theorem witness_StoreIsSeenByTheNextFetch :
    ({ bare 0xF155 with i := 0x202#16 } : State).pc.toNat ≤ 0xFFC ∧
    decode ({ bare 0xF155 with i := 0x202#16 } : State).opcodeAtPc = .ok (.storeRegs 1) ∧
    ({ bare 0xF155 with i := 0x202#16 } : State).i.toNat = (bare 0xF155).pc.toNat + 2 ∧ 1 ≤ (1 : RegIdx).val ∧
    ({ bare 0xF155 with i := 0x202#16 } : State).i.toNat + (1 : RegIdx).val ≤ 0xFFF := by decide

theorem witness_KeySkips_bounds :
    ((regs2 1 15 0 0).reg (1#4).toFin).toNat ≤ 15 ∧
    (regs2 1 15 0 0).key[((regs2 1 15 0 0).reg (1#4).toFin).toNat]? = some false ∧
    ((regs2 1 16 0 0).reg (1#4).toFin).toNat > 15 := by decide

theorem witness_KeyWaitTakesTheLeastPressedKey :
    (keys79 State.reset).key[(7 : KeyIdx).val] = true ∧
    ∀ j : KeyIdx, j.val < (7 : KeyIdx).val → (keys79 State.reset).key[j.val] = false := by decide

theorem witness_KeyWaitWithNoKeyChangesNothing :
    (∀ k : KeyIdx, (bare 0xF30A).key[k.val] = false) ∧ (bare 0xF30A).pc.toNat ≤ 0xFFE ∧
    decode (bare 0xF30A).opcodeAtPc = .ok (.ldVxKey 3) := by decide

theorem witness_Load_bounds :
    (List.replicate 3584 (0#8)).length ≤ 3584 ∧ (List.replicate 3585 (0#8)).length > 3584 := by
  simp only [List.length_replicate]
  decide

theorem witness_LoadedProgramRunsFromItsFirstBytes :
    ([] : List Byte).length ≤ 3582 ∧ decode (0x12#8 ++ 0x00#8) = .ok (.jp 0x200#16) := by decide

end Sys2Proof.Tests
end

section
/-!
PROOFS of the statements about the state (spec/10_state.md). First the frame of every shared operation, then the one
frame of `exec` that the frame statement and the invariant share; then the pc updates, the draw flag and ST, CXNN, and
the host reads.
-/

namespace Sys2Proof.Machine

open Sys2Proof.Claims

/-! ### When the instructions that match on the state complete -/

theorem exec_ret_next {s t : State} :
    exec .ret s = .next t ↔ ∃ w u, s.pop = some (w, u) ∧ (u.jump w).advance = t := by
  simp only [exec, execRet]
  cases s.pop with
  | none => simp
  | some p =>
    obtain ⟨w, u⟩ := p
    simp

theorem exec_call_next {nnn : Word} {s t : State} :
    exec (.call nnn) s = .next t ↔ ∃ u, s.push s.pc = some u ∧ u.jump nnn = t := by
  simp only [exec, execCall]
  cases s.push s.pc with
  | none => simp
  | some u => simp

theorem exec_skp_next {x : RegIdx} {s t : State} :
    exec (.skp x) s = .next t ↔
      ∃ h : (s.reg x).toNat < 16, s.skipIf (s.pressed ⟨(s.reg x).toNat, h⟩) = t := by
  simp only [exec, execSkp]
  split
  next h => simp [h]
  next h => simp [h]

theorem exec_sknp_next {x : RegIdx} {s t : State} :
    exec (.sknp x) s = .next t ↔
      ∃ h : (s.reg x).toNat < 16, s.skipIf (!s.pressed ⟨(s.reg x).toNat, h⟩) = t := by
  simp only [exec, execSknp]
  split
  next h => simp [h]
  next h => simp [h]

theorem exec_ldVxKey_next {x : RegIdx} {s t : State} :
    exec (.ldVxKey x) s = .next t ↔
      (s.leastPressed = none ∧ s = t) ∨
      ∃ k, s.leastPressed = some k ∧ (s.setReg x (BitVec.ofNat 8 k.val)).advance = t := by
  simp only [exec, execLdVxKey]
  cases s.leastPressed with
  | none => simp
  | some k => simp

/-! ### Writing a list of registers -/

/-- Writing registers one after another changes registers and nothing else. -/
theorem foldl_setReg_eq (s : State) (f : RegIdx → Byte) (rs : List RegIdx) :
    rs.foldl (fun t k => t.setReg k (f k)) s = { s with v := (rs.foldl (fun t k => t.setReg k (f k)) s).v } := by
  induction rs generalizing s with
  | nil => rfl
  | cons r rest ih =>
    rw [List.foldl_cons, ih]
    rfl

/-- The registers written read what was written to them, the others as before. -/
theorem reg_foldl_setReg (s : State) (f : RegIdx → Byte) (rs : List RegIdx) (q : RegIdx) :
    (rs.foldl (fun t k => t.setReg k (f k)) s).reg q = if q ∈ rs then f q else s.reg q := by
  induction rs generalizing s with
  | nil => simp
  | cons r rest ih =>
    rw [List.foldl_cons, ih, State.reg_setReg]
    by_cases hrest : q ∈ rest
    · simp [hrest]
    · by_cases hr : q = r <;> simp [hrest, hr]

/-! ### Frames, one rule per operation -/

/-- The frame of Safety.lean with the memory compared as data, which is stronger than byte by byte, and with the
parameters never written. -/
structure DataFrame (regs : List RegIdx) (parts : List Part) (s t : State) : Prop where
  reg      : ∀ r, r ∉ regs → t.reg r = s.reg r
  index    : .index ∉ parts → t.i = s.i
  stack    : .stack ∉ parts → t.stack = s.stack
  sp       : .sp ∉ parts → t.sp = s.sp
  dt       : .dt ∉ parts → t.dt = s.dt
  st       : .st ∉ parts → t.st = s.st
  mem      : .mem ∉ parts → t.mem = s.mem
  fb       : .fb ∉ parts → t.fb = s.fb
  key      : .key ∉ parts → t.key = s.key
  draw     : .draw ∉ parts → t.draw = s.draw
  rndCount : .rndCount ∉ parts → t.rndCount = s.rndCount
  params   : t.params = s.params

namespace DataFrame

variable {regs : List RegIdx} {parts : List Part} {s t : State}

theorem frameOf (h : DataFrame regs parts s t) : FrameOf regs parts s t := by
  refine ⟨h.reg, fun p hp => ?_⟩
  cases p with
  | index => exact h.index hp
  | stack => exact h.stack hp
  | sp => exact h.sp hp
  | dt => exact h.dt hp
  | st => exact h.st hp
  | mem => exact State.readByte_congr (h.mem hp) h.params
  | fb => exact h.fb hp
  | key => exact h.key hp
  | draw => exact h.draw hp
  | rndCount => exact h.rndCount hp
  | params => exact h.params

theorem refl (regs : List RegIdx) (parts : List Part) (s : State) : DataFrame regs parts s s := by
  constructor <;> intros <;> rfl

theorem setReg (h : DataFrame regs parts s t) {r : RegIdx} (hr : r ∈ regs) (b : Byte) :
    DataFrame regs parts s (t.setReg r b) :=
  { h with reg := fun q hq => (State.reg_setReg_ne t b (ne_of_mem_of_not_mem hr hq).symm).trans (h.reg q hq) }

theorem advance (h : DataFrame regs parts s t) : DataFrame regs parts s t.advance := { h with reg := h.reg }

theorem skipIf (h : DataFrame regs parts s t) (c : Bool) : DataFrame regs parts s (t.skipIf c) :=
  { h with reg := h.reg }

theorem jump (h : DataFrame regs parts s t) (w : Word) : DataFrame regs parts s (t.jump w) := { h with reg := h.reg }

theorem setIndex (h : DataFrame regs parts s t) (hp : .index ∈ parts) (w : Word) :
    DataFrame regs parts s { t with i := w } :=
  { h with reg := h.reg, index := fun hn => absurd hp hn }

theorem setDt (h : DataFrame regs parts s t) (hp : .dt ∈ parts) (b : Byte) :
    DataFrame regs parts s { t with dt := b } :=
  { h with reg := h.reg, dt := fun hn => absurd hp hn }

theorem setSt (h : DataFrame regs parts s t) (hp : .st ∈ parts) (b : Byte) :
    DataFrame regs parts s { t with st := b } :=
  { h with reg := h.reg, st := fun hn => absurd hp hn }

theorem setRndCount (h : DataFrame regs parts s t) (hp : .rndCount ∈ parts) (n : Nat) :
    DataFrame regs parts s { t with rndCount := n } :=
  { h with reg := h.reg, rndCount := fun hn => absurd hp hn }

theorem setDisplay (h : DataFrame regs parts s t) (hfb : .fb ∈ parts) (hdraw : .draw ∈ parts)
    (fb : BitVec Config.fbCells) (b : Bool) : DataFrame regs parts s { t with fb := fb, draw := b } :=
  { h with reg := h.reg, fb := fun hn => absurd hfb hn, draw := fun hn => absurd hdraw hn }

theorem push (h : DataFrame regs parts s t) (hstack : .stack ∈ parts) (hsp : .sp ∈ parts) {w : Word} {u : State}
    (hu : t.push w = some u) : DataFrame regs parts s u := by
  obtain ⟨_, rfl⟩ := push_eq_some.mp hu
  exact { h with reg := h.reg, stack := fun hn => absurd hstack hn, sp := fun hn => absurd hsp hn }

theorem pop (h : DataFrame regs parts s t) (hsp : .sp ∈ parts) {w : Word} {u : State}
    (hu : t.pop = some (w, u)) : DataFrame regs parts s u := by
  obtain ⟨_, _, rfl⟩ := pop_eq_some.mp hu
  exact { h with reg := h.reg, sp := fun hn => absurd hsp hn }

theorem writeBytes (h : DataFrame regs parts s t) (hp : .mem ∈ parts) (a : Nat) (bytes : List Byte) :
    DataFrame regs parts s (t.writeBytes a bytes) := by
  rw [writeBytes_eq]
  exact { h with reg := h.reg, mem := fun hn => absurd hp hn }

theorem writeFlagAndDest (h : DataFrame regs parts s t) {dest : RegIdx} (hd : dest ∈ regs) (hf : VF ∈ regs)
    (flag : Byte) (result : State → Byte) : DataFrame regs parts s (t.writeFlagAndDest flag dest result) := by
  unfold State.writeFlagAndDest
  split
  · exact (h.setReg hf _).setReg hd _
  · exact (h.setReg hd _).setReg hf _

theorem foldl_setReg (h : DataFrame regs parts s t) (f : RegIdx → Byte) {rs : List RegIdx} (hrs : rs ⊆ regs) :
    DataFrame regs parts s (rs.foldl (fun u k => u.setReg k (f k)) t) := by
  rw [foldl_setReg_eq]
  refine { h with reg := fun q hq => ?_ }
  have hnot : q ∉ rs := fun hmem => hq (hrs hmem)
  calc _ = (rs.foldl (fun u k => u.setReg k (f k)) t).reg q := State.reg_congr rfl q
    _ = t.reg q := by rw [reg_foldl_setReg, if_neg hnot]
    _ = s.reg q := h.reg q hq

end DataFrame

/-! ### The frame of every instruction -/

/-- What an instruction that completes leaves unchanged, as data (R90, decision D17). -/
theorem exec_dataFrame {i : Instr} {s t : State} (h : exec i s = .next t) :
    DataFrame (destRegs i) (destParts i) s t := by
  have start := DataFrame.refl (destRegs i) (destParts i) s
  cases i with
  | cls =>
    cases h
    exact (start.setDisplay (by decide) (by decide) _ _).advance
  | ret =>
    obtain ⟨_, _, hpop, rfl⟩ := exec_ret_next.mp h
    exact ((start.pop (by decide) hpop).jump _).advance
  | jp nnn | jpV0 nnn =>
    cases h
    exact start.jump _
  | call nnn =>
    obtain ⟨_, hpush, rfl⟩ := exec_call_next.mp h
    exact (start.push (by simp [destParts]) (by simp [destParts]) hpush).jump _
  | seImm x nn | sneImm x nn | seReg x y | sneReg x y =>
    cases h
    exact start.skipIf _
  | ldImm x nn | addImm x nn | ldReg x y | orReg x y | andReg x y | xorReg x y | ldVxDt x =>
    cases h
    exact (start.setReg (List.mem_singleton_self _) _).advance
  | addReg x y =>
    cases h
    exact ((start.setReg (by simp [destRegs]) _).setReg (by simp [destRegs]) _).advance
  | sub x y | shr x y | subn x y | shl x y =>
    cases h
    exact (start.writeFlagAndDest (by simp [destRegs]) (by simp [destRegs]) _ _).advance
  | ldI nnn | addI x | ldFont x =>
    cases h
    exact (start.setIndex (List.mem_singleton_self _) _).advance
  | rnd x nn =>
    cases h
    exact ((start.setRndCount (List.mem_singleton_self _) _).setReg (List.mem_singleton_self _) _).advance
  | drw x y n =>
    obtain ⟨_, rfl⟩ := checkedAccess_next.mp h
    have hdisplay := start.setDisplay (by simp [destParts]) (by simp [destParts]) (s.drawSprite x y n).1 true
    exact (hdisplay.setReg (List.mem_singleton_self _) _).advance
  | skp x =>
    obtain ⟨_, rfl⟩ := exec_skp_next.mp h
    exact start.skipIf _
  | sknp x =>
    obtain ⟨_, rfl⟩ := exec_sknp_next.mp h
    exact start.skipIf _
  | ldVxKey x =>
    obtain ⟨_, rfl⟩ | ⟨_, _, rfl⟩ := exec_ldVxKey_next.mp h
    · exact start
    · exact (start.setReg (List.mem_singleton_self _) _).advance
  | ldDtVx x =>
    cases h
    exact (start.setDt (List.mem_singleton_self _) _).advance
  | ldStVx x =>
    cases h
    exact (start.setSt (List.mem_singleton_self _) _).advance
  | ldBcd x | storeRegs x =>
    obtain ⟨_, rfl⟩ := checkedAccess_next.mp h
    exact (start.writeBytes (List.mem_singleton_self _) _ _).advance
  | loadRegs x =>
    obtain ⟨_, rfl⟩ := checkedAccess_next.mp h
    exact (start.foldl_setReg _ (List.Subset.refl _)).advance

/-- Settles O11: the frame as data gives the frame of the statement. -/
theorem instructionsWriteOnlyTheirOwnState : Obligations.InstructionsWriteOnlyTheirOwnState :=
  fun _ _ _ h => (exec_dataFrame h).frameOf

/-! ### The step -/

/-- A step answers a next state exactly when it fetches and decodes, and the decoded instruction completes (R97). -/
theorem step_eq_next {s t : State} :
    step s = .next t ↔ s.pc.toNat ≤ 0xFFE ∧ ∃ i, decode s.opcodeAtPc = .ok i ∧ exec i s = .next t := by
  rcases fetchDecode_cases s with ⟨hpc, hf⟩ | ⟨hpc, ⟨i, hd, hf⟩ | ⟨e, hd, hf⟩⟩
  · have : ¬ s.pc.toNat ≤ 0xFFE := Nat.not_le_of_gt hpc
    simp [step, hf, this]
  · simp [step, hf, hd, hpc]
  · simp [step, hf, hd]

end Sys2Proof.Machine

namespace Sys2Proof

/-! ### Decoded instructions are well-formed (R72) -/

theorem wellFormed_of_decodeGroup0 {w : Word} {i : Instr} (h : decodeGroup0 w = .ok i) : i.wellFormed = true := by
  unfold decodeGroup0 at h
  split_ifs at h <;> cases h <;> rfl

theorem wellFormed_of_decodeGroup8 {w : Word} {i : Instr} (h : decodeGroup8 w = .ok i) : i.wellFormed = true := by
  unfold decodeGroup8 at h
  split at h <;> cases h <;> rfl

theorem wellFormed_of_decodeGroupE {w : Word} {i : Instr} (h : decodeGroupE w = .ok i) : i.wellFormed = true := by
  unfold decodeGroupE at h
  split_ifs at h <;> cases h <;> rfl

theorem wellFormed_of_decodeGroupF {w : Word} {i : Instr} (h : decodeGroupF w = .ok i) : i.wellFormed = true := by
  unfold decodeGroupF at h
  split_ifs at h <;> cases h <;> rfl

theorem decodeZeroNibble_eq_ok {w : Word} {i j : Instr} : decodeZeroNibble w i = .ok j ↔ fieldN w = 0 ∧ i = j := by
  unfold decodeZeroNibble
  split <;> simp_all

/-- The decoder gives only instructions whose operands lie in the range of their fields (R72). Case `h_(k + 1)` is the
arm of high nibble `k`. -/
theorem wellFormed_of_decode {w : Word} {i : Instr} (h : decode w = .ok i) : i.wellFormed = true := by
  unfold decode at h
  split at h
  case h_1 => exact wellFormed_of_decodeGroup0 h
  case h_9 => exact wellFormed_of_decodeGroup8 h
  case h_15 => exact wellFormed_of_decodeGroupE h
  case h_16 => exact wellFormed_of_decodeGroupF h
  case h_6 | h_10 =>
    obtain ⟨_, rfl⟩ := decodeZeroNibble_eq_ok.mp h
    rfl
  case h_2 | h_3 | h_11 | h_12 =>
    cases h
    exact addrFits_fieldNNN w
  case h_14 =>
    cases h
    exact heightFits_fieldN w
  all_goals
    cases h
    rfl

end Sys2Proof

namespace Sys2Proof.Machine

open Sys2Proof.Claims

/-! ### The pc updates (R96) -/

/-- The pc an instruction can leave. -/
inductive PcUpdate (s : State) : Instr → Word → Prop where
  | stay (i : Instr) : PcUpdate s i s.pc
  | advance (i : Instr) : PcUpdate s i (s.pc + 2)
  | skip (i : Instr) : PcUpdate s i (s.pc + 4)
  | jp (nnn : Word) : PcUpdate s (.jp nnn) nnn
  | call (nnn : Word) : PcUpdate s (.call nnn) nnn
  | jpV0 (nnn : Word) : PcUpdate s (.jpV0 nnn) (s.v0Target nnn)
  | ret (k : Fin 16) : PcUpdate s .ret (s.stack[k.val] + 2)

theorem pcUpdate_skipIf (s : State) (i : Instr) (c : Bool) : PcUpdate s i (s.skipIf c).pc := by
  cases c
  · exact .advance i
  · exact .skip i

/-- The pc after an instruction that completes. -/
theorem exec_pcUpdate {i : Instr} {s t : State} (h : exec i s = .next t) : PcUpdate s i t.pc := by
  cases i with
  | ret =>
    obtain ⟨_, _, hpop, rfl⟩ := exec_ret_next.mp h
    obtain ⟨_, rfl, rfl⟩ := pop_eq_some.mp hpop
    exact .ret ⟨s.sp.val - 1, by omega⟩
  | jp nnn =>
    cases h
    exact .jp nnn
  | call nnn =>
    obtain ⟨_, _, rfl⟩ := exec_call_next.mp h
    exact .call nnn
  | jpV0 nnn =>
    cases h
    exact .jpV0 nnn
  | seImm x nn | sneImm x nn | seReg x y | sneReg x y =>
    cases h
    exact pcUpdate_skipIf s _ _
  | skp x =>
    obtain ⟨_, rfl⟩ := exec_skp_next.mp h
    exact pcUpdate_skipIf s _ _
  | sknp x =>
    obtain ⟨_, rfl⟩ := exec_sknp_next.mp h
    exact pcUpdate_skipIf s _ _
  | ldVxKey x =>
    obtain ⟨_, rfl⟩ | ⟨_, _, rfl⟩ := exec_ldVxKey_next.mp h
    · exact .stay _
    · exact .advance _
  | sub x y | shr x y | subn x y | shl x y =>
    cases h
    rw [writeFlagAndDest_eq]
    exact .advance _
  | ldBcd x | storeRegs x =>
    obtain ⟨_, rfl⟩ := checkedAccess_next.mp h
    rw [State.advance_pc, writeBytes_pc]
    exact .advance _
  | loadRegs x =>
    obtain ⟨_, rfl⟩ := checkedAccess_next.mp h
    rw [foldl_setReg_eq]
    exact .advance _
  | drw x y n =>
    obtain ⟨_, rfl⟩ := checkedAccess_next.mp h
    exact .advance _
  | cls | ldImm x nn | addImm x nn | ldReg x y | orReg x y | andReg x y | xorReg x y | addReg x y | ldI nnn
  | rnd x nn | ldVxDt x | ldDtVx x | ldStVx x | addI x | ldFont x =>
    cases h
    exact .advance _

/-- From a fetchable pc and return addresses within the fetchable range, no well-formed instruction leaves a pc above
0x10FE, the highest target of BNNN (R25). -/
theorem PcUpdate.toNat_le {s : State} {i : Instr} {w : Word} (h : PcUpdate s i w) (hpc : s.pc.toNat ≤ 0xFFE)
    (hstack : ∀ k : Fin 16, s.stack[k.val].toNat ≤ 0xFFE) (hi : i.wellFormed = true) : w.toNat ≤ 0x10FE := by
  cases h with
  | stay => omega
  | advance => bv_omega
  | skip => bv_omega
  | jp | call =>
    have hw : w.toNat ≤ 0xFFF := of_decide_eq_true hi
    omega
  | jpV0 nnn =>
    have hnnn : nnn.toNat ≤ 0xFFF := of_decide_eq_true hi
    have hv0 := (s.reg V0).isLt
    simp only [State.v0Target, BitVec.toNat_add, BitVec.toNat_setWidth]
    omega
  | ret k =>
    have hk := hstack k
    bv_omega

/-! ### Every step keeps the invariant -/

/-- Only CALL writes the stack (R26). -/
theorem eq_call_of_stack_mem_destParts {i : Instr} (h : .stack ∈ destParts i) : ∃ nnn, i = .call nnn := by
  cases i <;> simp [destParts] at h ⊢

/-- Only FX33 and FX55 write the memory (R50). -/
theorem eq_store_of_mem_mem_destParts {i : Instr} (h : .mem ∈ destParts i) :
    (∃ x, i = .ldBcd x) ∨ ∃ x, i = .storeRegs x := by
  cases i <;> simp [destParts] at h ⊢

/-- An instruction that completes keeps the canonical form of the memory. -/
theorem exec_keeps_memory_wf {i : Instr} {s t : State} (h : exec i s = .next t)
    (hs : Memory.wf s.params.font s.mem) : Memory.wf t.params.font t.mem := by
  have frame := exec_dataFrame h
  rw [frame.params]
  by_cases hmem : .mem ∈ destParts i
  · obtain ⟨x, rfl⟩ | ⟨x, rfl⟩ := eq_store_of_mem_mem_destParts hmem
    all_goals
      obtain ⟨_, rfl⟩ := checkedAccess_next.mp h
      exact wf_writeBytes hs _ _
  · rw [frame.mem hmem]
    exact hs

/-- An instruction that completes from a fetchable pc keeps every stack entry in the fetchable range: the one address
pushed is that of a CALL (R123). -/
theorem exec_keeps_stack_le {i : Instr} {s t : State} (h : exec i s = .next t) (hpc : s.pc.toNat ≤ 0xFFE)
    (hs : ∀ k : Fin 16, s.stack[k.val].toNat ≤ 0xFFE) (k : Fin 16) : t.stack[k.val].toNat ≤ 0xFFE := by
  by_cases hstack : .stack ∈ destParts i
  · obtain ⟨nnn, rfl⟩ := eq_call_of_stack_mem_destParts hstack
    obtain ⟨_, hpush, rfl⟩ := exec_call_next.mp h
    obtain ⟨_, rfl⟩ := push_eq_some.mp hpush
    simp only [State.jump_stack, Vector.getElem_set]
    split
    · exact hpc
    · exact hs k
  · simpa only [(exec_dataFrame h).stack hstack] using hs k

/-- Settles O14: the memory and the stack by the frames, the pc by the table of its updates. -/
theorem stepKeepsTheInvariant : Obligations.StepKeepsTheInvariant := by
  rintro s t ⟨hmem, -, hstack⟩ hstep
  obtain ⟨hpc, i, hdecode, hexec⟩ := step_eq_next.mp hstep
  exact ⟨exec_keeps_memory_wf hexec hmem,
    (exec_pcUpdate hexec).toNat_le hpc hstack (wellFormed_of_decode hdecode),
    exec_keeps_stack_le hexec hpc hstack⟩

/-! ### The draw flag and ST are not read (R29, R35) -/

/-- The state with another draw flag and another sound timer. -/
def State.withDrawSt (s : State) (b : Bool) (v : Byte) : State := { s with draw := b, st := v }

@[simp] theorem reg_withDrawSt (s : State) (b : Bool) (v : Byte) (r : RegIdx) :
    (s.withDrawSt b v).reg r = s.reg r := rfl

@[simp] theorem pc_withDrawSt (s : State) (b : Bool) (v : Byte) : (s.withDrawSt b v).pc = s.pc := rfl

@[simp] theorem params_withDrawSt (s : State) (b : Bool) (v : Byte) : (s.withDrawSt b v).params = s.params := rfl

@[simp] theorem leastPressed_withDrawSt (s : State) (b : Bool) (v : Byte) :
    (s.withDrawSt b v).leastPressed = s.leastPressed := rfl

theorem push_withDrawSt (s : State) (b : Bool) (v : Byte) (w : Word) :
    (s.withDrawSt b v).push w = (s.push w).map (·.withDrawSt b v) := by
  by_cases h : s.sp.val < 16
  · simp [State.push, State.withDrawSt, h]
  · simp [State.push, State.withDrawSt, h]

theorem pop_withDrawSt (s : State) (b : Bool) (v : Byte) :
    (s.withDrawSt b v).pop = s.pop.map (Prod.map id (·.withDrawSt b v)) := by
  by_cases h : 0 < s.sp.val
  · simp [State.pop, State.withDrawSt, h]
  · simp [State.pop, State.withDrawSt, h]

theorem readBytes_withDrawSt (s : State) (b : Bool) (v : Byte) (a n : Nat) :
    (s.withDrawSt b v).readBytes a n = s.readBytes a n := by
  induction n generalizing a with
  | zero => rfl
  | succ n ih => exact congrArg (s.readByte a :: ·) (ih (a + 1))

theorem writeBytes_withDrawSt (s : State) (b : Bool) (v : Byte) (a : Nat) (bytes : List Byte) :
    (s.withDrawSt b v).writeBytes a bytes = (s.writeBytes a bytes).withDrawSt b v := by
  induction bytes generalizing s a with
  | nil => rfl
  | cons c rest ih => exact ih (s.writeByte a c) (a + 1)

theorem foldl_setReg_withDrawSt (s : State) (b : Bool) (v : Byte) (f : RegIdx → Byte) (rs : List RegIdx) :
    rs.foldl (fun t k => t.setReg k (f k)) (s.withDrawSt b v) =
      (rs.foldl (fun t k => t.setReg k (f k)) s).withDrawSt b v := by
  induction rs generalizing s with
  | nil => rfl
  | cons r rest ih => exact ih (s.setReg r (f r))

theorem drawSprite_withDrawSt (s : State) (b : Bool) (v : Byte) (x y : RegIdx) (n : Nat) :
    (s.withDrawSt b v).drawSprite x y n = s.drawSprite x y n :=
  congrArg (fun bytes => drawRows (s.spriteX x) (s.spriteY y) 0 bytes (s.fb, false))
    (readBytes_withDrawSt s b v (s.indexAddr 0) n)

theorem writeFlagAndDest_withDrawSt (s : State) (b : Bool) (v : Byte) (flag : Byte) (dest : RegIdx)
    {result : State → Byte} (hresult : ∀ t : State, result (t.withDrawSt b v) = result t) :
    (s.withDrawSt b v).writeFlagAndDest flag dest result =
      (s.writeFlagAndDest flag dest result).withDrawSt b v := by
  simp only [State.writeFlagAndDest, params_withDrawSt]
  rw [← hresult (s.setReg VF flag), ← hresult s]
  cases s.params.vfOrder <;> rfl

/-- An outcome seen without the draw flag and ST of the next state. -/
def hideDrawSt : Result → Result
  | .next t => .next (t.withDrawSt false 0)
  | .fault f => .fault f
  | .refused r => .refused r

theorem hideDrawSt_eq_fault {r : Result} {f : Fault} : hideDrawSt r = .fault f ↔ r = .fault f := by
  cases r <;> simp [hideDrawSt]

theorem hideDrawSt_eq_next {r : Result} {u : State} :
    hideDrawSt r = .next u ↔ ∃ t, r = .next t ∧ t.withDrawSt false 0 = u := by
  cases r <;> simp [hideDrawSt]

/-- A check of the same address, then next states that differ only in the draw flag and ST. -/
theorem hideDrawSt_checkedAccess (s : State) (b : Bool) (v : Byte) (i : Instr) (last : Nat) {t t' : State}
    (h : t'.withDrawSt false 0 = t.withDrawSt false 0) :
    hideDrawSt ((s.withDrawSt b v).checkedAccess i last t') = hideDrawSt (s.checkedAccess i last t) := by
  unfold State.checkedAccess
  split
  · rfl
  · exact congrArg Host.Outcome.next h

/-- No instruction reads the draw flag or ST. -/
theorem hideDrawSt_exec (i : Instr) (s : State) (b : Bool) (v : Byte) :
    hideDrawSt (exec i (s.withDrawSt b v)) = hideDrawSt (exec i s) := by
  cases i with
  | sub x y | shr x y | subn x y | shl x y =>
    simp only [exec, execSub, execShr, execSubn, execShl]
    rw [writeFlagAndDest_withDrawSt s b v _ _ (fun _ => rfl)]
    rfl
  | ret =>
    simp only [exec, execRet, pop_withDrawSt]
    cases s.pop <;> rfl
  | call nnn =>
    simp only [exec, execCall, pc_withDrawSt, push_withDrawSt]
    cases s.push s.pc <;> rfl
  | skp x | sknp x =>
    by_cases hkey : (s.reg x).toNat < 16 <;>
      simp only [exec, execSkp, execSknp, reg_withDrawSt, hkey, ↓reduceDIte] <;> rfl
  | ldVxKey x =>
    simp only [exec, execLdVxKey, leastPressed_withDrawSt]
    cases s.leastPressed <;> rfl
  | drw x y n =>
    refine hideDrawSt_checkedAccess s b v _ _ ?_
    rw [drawSprite_withDrawSt]
    rfl
  | ldBcd x | storeRegs x =>
    refine hideDrawSt_checkedAccess s b v _ _ ?_
    rw [writeBytes_withDrawSt]
    rfl
  | loadRegs x =>
    refine hideDrawSt_checkedAccess s b v _ _ ?_
    rw [foldl_setReg_withDrawSt]
    rfl
  | cls | jp nnn | seImm x nn | sneImm x nn | seReg x y | ldImm x nn | addImm x nn | ldReg x y | orReg x y
  | andReg x y | xorReg x y | addReg x y | sneReg x y | ldI nnn | jpV0 nnn | rnd x nn | ldVxDt x | ldDtVx x
  | ldStVx x | addI x | ldFont x => rfl

/-- Nor do the fetch and the decoder, so no step does. -/
theorem hideDrawSt_step (s : State) (b : Bool) (v : Byte) :
    hideDrawSt (step (s.withDrawSt b v)) = hideDrawSt (step s) := by
  have hfetch : (s.withDrawSt b v).fetchDecode = s.fetchDecode := rfl
  unfold step
  rw [hfetch]
  cases s.fetchDecode with
  | error f => rfl
  | ok i => exact hideDrawSt_exec i s b v

/-- States that agree with the draw flag and ST hidden differ at most in those two. -/
theorem eq_withDrawSt_of_hidden_eq {t t' : State} (h : t'.withDrawSt false 0 = t.withDrawSt false 0) :
    t' = t.withDrawSt t'.draw t'.st :=
  calc t' = (t'.withDrawSt false 0).withDrawSt t'.draw t'.st := rfl
    _ = (t.withDrawSt false 0).withDrawSt t'.draw t'.st := by rw [h]
    _ = t.withDrawSt t'.draw t'.st := rfl

/-- Settles O12: the two steps agree once the draw flag and ST of the next states are hidden. -/
theorem drawFlagAndSoundTimerAreNotRead : Obligations.DrawFlagAndSoundTimerAreNotRead := by
  intro s b v
  have hstep := hideDrawSt_step s b v
  refine ⟨fun f => ?_, fun t ht => ?_⟩
  · rw [← hideDrawSt_eq_fault, ← hstep]
    exact hideDrawSt_eq_fault
  · rw [ht] at hstep
    obtain ⟨t', ht', hidden⟩ := hideDrawSt_eq_next.mp hstep
    exact ⟨t'.draw, t'.st, ht'.trans (congrArg Host.Outcome.next (eq_withDrawSt_of_hidden_eq hidden))⟩

/-! ### CXNN (R154) -/

/-- The word `CXNN` written out from its pattern decodes to RND (R74). -/
theorem decode_rnd (X : BitVec 4) (NN : Byte) : decode (0xC#4 ++ X ++ NN) = .ok (.rnd X.toFin NN) := by
  have hform : 0xC#4 ++ X ++ NN = formXNN 0xC#4 X.toFin NN := rfl
  have hgroup : fieldOp (formXNN 0xC#4 X.toFin NN) = 0xC := fieldOp_formXNN _ _ _
  rw [hform]
  simp [decode, hgroup, fieldX_formXNN, fieldNN_formXNN]

/-- Settles O38: the effect is the register write of `execRnd`, the rest is the frame. -/
theorem rndMasksTheDraw : Obligations.RndMasksTheDraw := by
  intro X NN s
  have hframe {t : State} := @exec_dataFrame (.rnd X.toFin NN) s t
  refine ⟨decode_rnd X NN, _, rfl, rfl, ⟨?_, fun j hj => ?_, rfl⟩, (hframe rfl).frameOf⟩
  · simp
  · simp [hj]

/-! ### Host reads (R230, R231) -/

@[simp] theorem length_readFb (s : State) : s.readFb.length = 2048 := by simp [State.readFb]

theorem getElem?_readFb (s : State) {k : Nat} (hk : k < 2048) : s.readFb[k]? = some (s.cell k) := by
  simp [State.readFb, hk]

/-- Settles O52: `read_fb` lists the cells by number, and a read performs nothing. -/
theorem hostReadsChangeNothing : Obligations.HostReadsChangeNothing := by
  intro s
  refine ⟨⟨s.readFb, rfl, length_readFb s, fun x y hx hy => getElem?_readFb s ?_⟩, rfl, rfl, rfl, rfl, rfl⟩
  omega

end Sys2Proof.Machine
end

section
/-!
PROOFS of the statements about the memory (spec/20_memory.md). First the invariant along every host schedule and the
canonical form; then what FX33, FX55, FX65 and DXYN do with the memory.
-/

namespace Sys2Proof.Machine

/-! ### The invariant under host operations (R60, R225) -/

/-- The reset state meets the invariant, whatever the parameters and the draws taken before. -/
theorem inv_resetWith (p : Config.Params) (n : Nat) : (State.resetWith p n).Inv :=
  ⟨Memory.wf_nil p.font, (by decide : resetPc.toNat ≤ 0x10FE), fun k => by simp⟩

/-- Bytes written anywhere keep the invariant: of the memory it asks the canonical form alone. -/
theorem inv_writeBytes {s : State} (hs : s.Inv) (a : Nat) (bytes : List Byte) : (s.writeBytes a bytes).Inv := by
  obtain ⟨hmem, hpc, hstack⟩ := hs
  refine ⟨?_, by simpa using hpc, by simpa using hstack⟩
  rw [writeBytes_params]
  exact wf_writeBytes hmem a bytes

/-- A load succeeds exactly with a program that fits, and then it is a reset and a copy (R243, R244). -/
theorem load_eq_next {s t : State} {bytes : List Byte} :
    s.load bytes = .next t ↔ bytes.length ≤ 3584 ∧ s.resetOp.writeBytes 0x200 bytes = t := by
  unfold State.load
  split
  next h => simp [of_decide_eq_true h]
  next h =>
    have hlong : ¬ bytes.length ≤ 3584 := fun hle => h (decide_eq_true hle)
    simp [hlong]

/-- Every host operation that succeeds keeps the invariant. -/
theorem perform_keeps_inv {op : HostOp} {s t : State} (h : perform op s = .next t) (hs : s.Inv) : t.Inv := by
  cases op with
  | reset =>
    cases h
    exact inv_resetWith _ _
  | load bytes =>
    obtain ⟨_, rfl⟩ := load_eq_next.mp h
    exact inv_writeBytes (inv_resetWith _ _) _ _
  | step => exact stepKeepsTheInvariant s t hs h
  | tick | writeKeys keys | clearDraw | readDraw | readFb | readDt | readSt =>
    cases h
    exact hs

/-- One host operation on a run keeps the invariant, succeed or fault (R212). -/
theorem Session.perform_keeps_inv (op : HostOp) {m : Session} (hm : m.state.Inv) : (m.perform op).state.Inv := by
  unfold Session.perform
  split
  next t h => exact Machine.perform_keeps_inv h hm
  next => exact hm
  next => exact hm

/-- Settles O15, by induction on the schedule. -/
theorem everyHostScheduleKeepsTheInvariant : Obligations.EveryHostScheduleKeepsTheInvariant := by
  intro ops
  induction ops with
  | nil => exact fun _ hm => hm
  | cons op rest ih => exact fun m hm => ih (m.perform op) (m.perform_keeps_inv op hm)

/-! ### The canonical form (R50, R55) -/

namespace Memory

theorem mem_of_lookup_eq_some {m : Memory} {a : Nat} {b : Byte} (h : lookup m a = some b) : (a, b) ∈ m := by
  induction m with
  | nil => simp [lookup] at h
  | cons c rest ih =>
    obtain ⟨k, w⟩ := c
    simp only [lookup] at h
    split at h
    next hk =>
      cases h
      exact hk ▸ List.mem_cons_self
    next => exact List.mem_cons_of_mem _ (ih h)

theorem lookup_eq_some_of_mem {m : Memory} (hm : m.Pairwise (fun c d => c.1 < d.1)) {c : Host.Cell} (hc : c ∈ m) :
    lookup m c.1 = some c.2 := by
  induction m with
  | nil => simp at hc
  | cons d rest ih =>
    obtain ⟨k, w⟩ := d
    obtain ⟨hk, hrest⟩ := List.pairwise_cons.mp hm
    rcases List.mem_cons.mp hc with rfl | hc
    · simp [lookup]
    · have hne : c.1 ≠ k := Nat.ne_of_gt (hk c hc)
      simp [lookup, hne, ih hrest hc]

/-- A canonical memory lists exactly the bytes that do not read as after reset. -/
theorem mem_iff_read {font : Config.Font} {m : Memory} (hm : wf font m) {c : Host.Cell} :
    c ∈ m ↔ c.1 < 0x1000 ∧ c.2 ≠ base font c.1 ∧ read font m c.1 = c.2 := by
  obtain ⟨hsorted, hcells⟩ := hm
  constructor
  · intro hc
    obtain ⟨ha, hb⟩ := hcells c hc
    exact ⟨ha, hb, by simp [read, lookup_eq_some_of_mem hsorted hc]⟩
  · rintro ⟨-, hb, hread⟩
    cases hl : lookup m c.1 with
    | none => exact absurd (by simpa [read, hl] using hread.symm) hb
    | some b =>
      have hbc : b = c.2 := by simpa [read, hl] using hread
      exact mem_of_lookup_eq_some (hbc ▸ hl)

/-- Two lists of cells by rising address with the same cells are the same list. -/
theorem eq_of_mem_iff {m m' : Memory} (hm : m.Pairwise (fun c d => c.1 < d.1))
    (hm' : m'.Pairwise (fun c d => c.1 < d.1)) (h : ∀ c, c ∈ m ↔ c ∈ m') : m = m' :=
  have : Std.Irrefl (fun c d : Host.Cell => c.1 < d.1) := ⟨fun c => Nat.lt_irrefl c.1⟩
  have : Std.Antisymm (fun c d : Host.Cell => c.1 < d.1) := ⟨fun _ _ h h' => absurd h' (Nat.lt_asymm h)⟩
  hm.eq_of_mem_iff hm' h

end Memory

/-- Settles O16: both memories list the same bytes, each in address order. -/
theorem canonicalMemoriesReadingAlikeAreEqual : Obligations.CanonicalMemoriesReadingAlikeAreEqual := by
  intro font m m' hm hm' hread
  refine Memory.eq_of_mem_iff hm.1 hm'.1 fun c => ?_
  rw [Memory.mem_iff_read hm, Memory.mem_iff_read hm']
  exact and_congr_right fun ha => by rw [hread c.1 ha]

/-! ### The words of group F (R74) -/

/-- A word `FXNN` written out from its pattern is decoded by its low byte alone (R73). -/
theorem decode_groupF (X : BitVec 4) (NN : Byte) :
    decode (0xF#4 ++ X ++ NN) = decodeGroupF (0xF#4 ++ X ++ NN) := by
  have hgroup : fieldOp (0xF#4 ++ X ++ NN) = 0xF := fieldOp_formXNN _ X.toFin NN
  simp [decode, hgroup]

@[simp] theorem fieldX_groupF (X : BitVec 4) (NN : Byte) : fieldX (0xF#4 ++ X ++ NN) = X.toFin :=
  fieldX_formXNN _ X.toFin NN

@[simp] theorem fieldNN_groupF (X : BitVec 4) (NN : Byte) : fieldNN (0xF#4 ++ X ++ NN) = NN :=
  fieldNN_formXNN _ X.toFin NN

theorem decode_ldBcd (X : BitVec 4) : decode (0xF#4 ++ X ++ 0x33#8) = .ok (.ldBcd X.toFin) := by
  simp [decode_groupF, decodeGroupF]

theorem decode_storeRegs (X : BitVec 4) : decode (0xF#4 ++ X ++ 0x55#8) = .ok (.storeRegs X.toFin) := by
  simp [decode_groupF, decodeGroupF]

theorem decode_loadRegs (X : BitVec 4) : decode (0xF#4 ++ X ++ 0x65#8) = .ok (.loadRegs X.toFin) := by
  simp [decode_groupF, decodeGroupF]

/-! ### FX33 (R173) -/

theorem exec_ldBcd_next {x : RegIdx} {s t : State} :
    exec (.ldBcd x) s = .next t ↔
      s.indexAddr 2 ≤ 0xFFF ∧ (s.writeBytes (s.indexAddr 0) (decimalDigits (s.reg x))).advance = t :=
  checkedAccess_next

@[simp] theorem length_decimalDigits (b : Byte) : (decimalDigits b).length = 3 := rfl

/-- No digit is cut off by the byte it is stored in. -/
theorem toNat_decimalDigits (b : Byte) :
    (decimalDigits b)[0].toNat = b.toNat / 100 ∧ (decimalDigits b)[1].toNat = b.toNat / 10 % 10 ∧
      (decimalDigits b)[2].toNat = b.toNat % 10 := by
  have hb := b.isLt
  refine ⟨Nat.mod_eq_of_lt ?_, Nat.mod_eq_of_lt ?_, Nat.mod_eq_of_lt ?_⟩ <;> omega

/-- The digit stored at `I + k`. -/
theorem readByte_of_ldBcd {x : RegIdx} {s t : State} (h : exec (.ldBcd x) s = .next t) {k : Nat} (hk : k < 3) :
    t.readByte (s.indexAddr k) = (decimalDigits (s.reg x))[k] := by
  obtain ⟨hfit, rfl⟩ := exec_ldBcd_next.mp h
  have hroom : s.indexAddr 0 + (decimalDigits (s.reg x)).length ≤ 0x1000 := by
    simp only [State.indexAddr, length_decimalDigits] at hfit ⊢
    omega
  exact readByte_writeBytes_inside s (s.indexAddr 0) _ hroom hk

theorem readByte_of_ldBcd_outside {x : RegIdx} {s t : State} (h : exec (.ldBcd x) s = .next t) {a : Nat}
    (ha : a < s.indexAddr 0 ∨ s.indexAddr 2 < a) : t.readByte a = s.readByte a := by
  obtain ⟨-, rfl⟩ := exec_ldBcd_next.mp h
  refine readByte_writeBytes_outside s _ _ ?_
  simp only [State.indexAddr, length_decimalDigits] at ha ⊢
  omega

/-- Settles O41: the digits and the other bytes by the two rules above, the rest by the frame. -/
theorem bcdStoresThreeDigits : Obligations.BcdStoresThreeDigits := by
  intro X s
  refine ⟨decode_ldBcd X, fun hfit => ?_, fun hbeyond => checkedAccess_fault.mpr ⟨hbeyond, rfl⟩⟩
  have hexec : exec (.ldBcd X.toFin) s = .next _ := exec_ldBcd_next.mpr ⟨hfit, rfl⟩
  obtain ⟨hundreds, tens, ones⟩ := toNat_decimalDigits (s.reg X.toFin)
  exact ⟨_, hexec, by simp, ⟨(congrArg BitVec.toNat (readByte_of_ldBcd hexec (by decide))).trans hundreds,
      (congrArg BitVec.toNat (readByte_of_ldBcd hexec (by decide))).trans tens,
      (congrArg BitVec.toNat (readByte_of_ldBcd hexec (by decide))).trans ones,
      fun _ => readByte_of_ldBcd_outside hexec⟩, (exec_dataFrame hexec).frameOf⟩

/-! ### The registers V0..VX -/

theorem length_regsUpTo : ∀ x : RegIdx, (regsUpTo x).length = x.val + 1 := by decide

theorem getElem?_regsUpTo : ∀ x k : RegIdx, k ≤ x → (regsUpTo x)[k.val]? = some k := by decide

theorem mem_regsUpTo {x k : RegIdx} : k ∈ regsUpTo x ↔ k ≤ x := by
  have hall : k ∈ allRegs := by revert k; decide
  simp [regsUpTo, hall]

/-! ### FX55 (R174) -/

theorem exec_storeRegs_next {x : RegIdx} {s t : State} :
    exec (.storeRegs x) s = .next t ↔
      s.indexAddr x.val ≤ 0xFFF ∧ (s.writeBytes (s.indexAddr 0) ((regsUpTo x).map s.reg)).advance = t :=
  checkedAccess_next

/-- The register stored at `I + k`. -/
theorem readByte_of_storeRegs {x : RegIdx} {s t : State} (h : exec (.storeRegs x) s = .next t) {k : RegIdx}
    (hk : k ≤ x) : t.readByte (s.indexAddr k.val) = s.reg k := by
  obtain ⟨hfit, rfl⟩ := exec_storeRegs_next.mp h
  obtain ⟨hlt, hget⟩ := List.getElem?_eq_some_iff.mp (getElem?_regsUpTo x k hk)
  have hroom : s.indexAddr 0 + ((regsUpTo x).map s.reg).length ≤ 0x1000 := by
    simp only [State.indexAddr, List.length_map, length_regsUpTo] at hfit ⊢
    omega
  calc _ = ((regsUpTo x).map s.reg)[k.val]'(by simpa using hlt) :=
        readByte_writeBytes_inside s (s.indexAddr 0) _ hroom _
    _ = s.reg k := by simp [hget]

theorem readByte_of_storeRegs_outside {x : RegIdx} {s t : State} (h : exec (.storeRegs x) s = .next t) {a : Nat}
    (ha : a < s.indexAddr 0 ∨ s.indexAddr x.val < a) : t.readByte a = s.readByte a := by
  obtain ⟨-, rfl⟩ := exec_storeRegs_next.mp h
  refine readByte_writeBytes_outside s _ _ ?_
  simp only [State.indexAddr, List.length_map, length_regsUpTo] at ha ⊢
  omega

/-- Settles O42: the registers and the other bytes by the two rules above, the rest by the frame. -/
theorem storeRegistersWritesV0ToVx : Obligations.StoreRegistersWritesV0ToVx := by
  intro X s
  refine ⟨decode_storeRegs X, fun hfit => ?_, fun hbeyond => checkedAccess_fault.mpr ⟨hbeyond, rfl⟩⟩
  have hexec : exec (.storeRegs X.toFin) s = .next _ := exec_storeRegs_next.mpr ⟨hfit, rfl⟩
  exact ⟨_, hexec, by simp, ⟨fun _ => readByte_of_storeRegs hexec, fun _ => readByte_of_storeRegs_outside hexec⟩,
    (exec_dataFrame hexec).frameOf⟩

/-! ### FX65 (R175) -/

theorem exec_loadRegs_next {x : RegIdx} {s t : State} :
    exec (.loadRegs x) s = .next t ↔
      s.indexAddr x.val ≤ 0xFFF ∧
        ((regsUpTo x).foldl (fun u k => u.setReg k (s.readByte (s.indexAddr k.val))) s).advance = t :=
  checkedAccess_next

/-- A register up to VX holds the byte at `I + k`, a higher one what it held. -/
theorem reg_of_loadRegs {x : RegIdx} {s t : State} (h : exec (.loadRegs x) s = .next t) (k : RegIdx) :
    t.reg k = if k ≤ x then s.readByte (s.indexAddr k.val) else s.reg k := by
  obtain ⟨-, rfl⟩ := exec_loadRegs_next.mp h
  simp [reg_foldl_setReg, mem_regsUpTo]

/-- Settles O43: the registers by the rule above, every other piece of state by the frame. -/
theorem loadRegistersReadsV0ToVx : Obligations.LoadRegistersReadsV0ToVx := by
  intro X s
  refine ⟨decode_loadRegs X, fun hfit => ?_, fun hbeyond => checkedAccess_fault.mpr ⟨hbeyond, rfl⟩⟩
  have hexec : exec (.loadRegs X.toFin) s = .next _ := exec_loadRegs_next.mpr ⟨hfit, rfl⟩
  refine ⟨_, hexec, ?_, fun k hk => ?_, fun k hk => ?_,
    fun p => (exec_dataFrame hexec).frameOf.2 p List.not_mem_nil⟩
  · rw [foldl_setReg_eq]
    rfl
  · exact (reg_of_loadRegs hexec k).trans (if_pos hk)
  · exact (reg_of_loadRegs hexec k).trans (if_neg (Nat.not_le_of_gt hk))

/-! ### A store over the next instruction (R62) -/

/-- Settles O45: the bytes at `pc + 2` and `pc + 3` are those FX55 stored at `I` and `I + 1`. -/
theorem storeIsSeenByTheNextFetch : Obligations.StoreIsSeenByTheNextFetch := by
  intro s x hpc hdecode hi hx hfit
  have hexec : exec (.storeRegs x) s = .next _ := exec_storeRegs_next.mpr ⟨hfit, rfl⟩
  have hnext : (s.writeBytes (s.indexAddr 0) ((regsUpTo x).map s.reg)).advance.pc.toNat = s.pc.toNat + 2 := by
    rw [State.advance_pc, writeBytes_pc]
    bv_omega
  refine ⟨_, step_eq_next.mpr ⟨by omega, _, hdecode, hexec⟩, hnext, ?_⟩
  have h0 := readByte_of_storeRegs hexec (Fin.zero_le x)
  have h1 := readByte_of_storeRegs hexec (k := 1) hx
  rw [State.opcodeAtPc, hnext, ← hi]
  exact congrArg₂ opcodeOfBytes h0 h1

/-! ### DXYN beyond the memory (R52, R112) -/

theorem lastSpriteAddr_of_pos (s : State) {n : Nat} (hn : 0 < n) : s.lastSpriteAddr n = s.i.toNat + n - 1 := by
  simp only [State.lastSpriteAddr, State.indexAddr]
  split <;> omega

/-- The encoding of DXYN is the word of its pattern (R74). -/
theorem encode_drw (X Y N : BitVec 4) : encode (.drw X.toFin Y.toFin N.toNat) = 0xD#4 ++ X ++ Y ++ N := by
  simp [encode, formXYN, regNibble]

/-- Settles O22: the check of R52 at the address of the last sprite byte. -/
theorem drwBeyondMemoryFaults : Obligations.DrwBeyondMemoryFaults := by
  intro X Y N s hn hbeyond
  have hlast := lastSpriteAddr_of_pos s hn
  exact checkedAccess_fault.mpr ⟨hlast.symm ▸ hbeyond, by rw [hlast, encode_drw]⟩

end Sys2Proof.Machine
end

section
/-!
PROOFS of the statements about the encoding (spec/30_encoding.md). First the round trip between words and instructions;
then the illegal words of R75 and the rows of the opcode map; last that no step is refused.
-/

namespace Sys2Proof

/-! ### From an instruction to its word and back (R71 to R74) -/

theorem decode_encode {i : Instr} (hi : i.wellFormed = true) : decode (encode i) = .ok i := by
  cases i with
  | cls | ret => rfl
  | jp nnn | call nnn | ldI nnn | jpV0 nnn =>
    simp [encode, decode, fieldOp_formNNN, fieldNNN_formNNN _ hi]
  | seImm x nn | sneImm x nn | ldImm x nn | addImm x nn | rnd x nn =>
    simp [encode, decode, fieldOp_formXNN, fieldX_formXNN, fieldNN_formXNN]
  | skp x | sknp x =>
    simp [encode, decode, decodeGroupE, fieldOp_formXNN, fieldX_formXNN, fieldNN_formXNN]
  | ldVxDt x | ldVxKey x | ldDtVx x | ldStVx x | addI x | ldFont x | ldBcd x | storeRegs x | loadRegs x =>
    simp [encode, decode, decodeGroupF, fieldOp_formXNN, fieldX_formXNN, fieldNN_formXNN]
  | seReg x y | sneReg x y =>
    simp [encode, decode, decodeZeroNibble, fieldOp_formXYN, fieldX_formXYN, fieldY_formXYN, fieldN_formXYN]
  | ldReg x y | orReg x y | andReg x y | xorReg x y | addReg x y | sub x y | shr x y | subn x y | shl x y =>
    simp [encode, decode, decodeGroup8, fieldOp_formXYN, fieldX_formXYN, fieldY_formXYN, fieldN_formXYN]
  | drw x y n =>
    have hn : n ≤ 15 := of_decide_eq_true hi
    have hmod : n % 16 = n := Nat.mod_eq_of_lt (by omega)
    simp [encode, decode, fieldOp_formXYN, fieldX_formXYN, fieldY_formXYN, fieldN_formXYN, hmod]

/-- Settles O2: each format's fields read back what the encoder put there. -/
theorem decodeOfEncodeIsTheInstruction : Obligations.DecodeOfEncodeIsTheInstruction :=
  fun _ hi => decode_encode hi

/-- Settles O1: ten closed words, evaluated. -/
theorem sampleWordsDecode : Obligations.SampleWordsDecode := by
  unfold Obligations.SampleWordsDecode
  decide

/-! ### From a word to its instruction and back (R73, R74, R77) -/

/-- Formats oXYo: a word whose high and low nibbles are known. -/
theorem formXYN_fieldX_fieldY {w : Word} {op n : Nat} (hop : fieldOp w = op) (hn : fieldN w = n) :
    formXYN (BitVec.ofNat 4 op) (fieldX w) (fieldY w) (BitVec.ofNat 4 n) = w := by
  rw [← extract_n_of_fieldN hn]
  exact formXYN_fields hop

/-- Format oXNN: a word whose high nibble and low byte are known. -/
theorem formXNN_fieldX {w : Word} {op : Nat} {nn : Byte} (hop : fieldOp w = op) (hnn : fieldNN w = nn) :
    formXNN (BitVec.ofNat 4 op) (fieldX w) nn = w := by
  rw [← hnn]
  exact formXNN_fields hop

theorem encode_of_decodeGroup0 {w : Word} {i : Instr} (h : decodeGroup0 w = .ok i) : encode i = w := by
  unfold decodeGroup0 at h
  split_ifs at h with hw hw <;> cases h <;> exact hw.symm

theorem encode_of_decodeGroup8 {w : Word} {i : Instr} (hop : fieldOp w = 8) (h : decodeGroup8 w = .ok i) :
    encode i = w := by
  unfold decodeGroup8 at h
  split at h <;> cases h <;> exact formXYN_fieldX_fieldY hop ‹_›

theorem encode_of_decodeGroupE {w : Word} {i : Instr} (hop : fieldOp w = 0xE) (h : decodeGroupE w = .ok i) :
    encode i = w := by
  unfold decodeGroupE at h
  split_ifs at h <;> cases h <;> exact formXNN_fieldX hop ‹_›

theorem encode_of_decodeGroupF {w : Word} {i : Instr} (hop : fieldOp w = 0xF) (h : decodeGroupF w = .ok i) :
    encode i = w := by
  unfold decodeGroupF at h
  split_ifs at h <;> cases h <;> exact formXNN_fieldX hop ‹_›

theorem encode_of_decode {w : Word} {i : Instr} (h : decode w = .ok i) : encode i = w := by
  unfold decode at h
  split at h
  case h_1 => exact encode_of_decodeGroup0 h
  case h_9 hop => exact encode_of_decodeGroup8 hop h
  case h_15 hop => exact encode_of_decodeGroupE hop h
  case h_16 =>
    have hop : fieldOp w = 0xF := by
      have := fieldOp_lt w
      simp only [imp_false] at *
      omega
    exact encode_of_decodeGroupF hop h
  case h_6 hop | h_10 hop =>
    obtain ⟨hn, rfl⟩ := decodeZeroNibble_eq_ok.mp h
    exact formXYN_fieldX_fieldY hop hn
  case h_2 hop | h_3 hop | h_11 hop | h_12 hop =>
    cases h
    exact formNNN_fields hop
  case h_4 hop | h_5 hop | h_7 hop | h_8 hop | h_13 hop =>
    cases h
    exact formXNN_fields hop
  case h_14 hop =>
    cases h
    exact formXYN_fieldX_fieldY hop rfl

/-- Settles O3: each format holds every bit of a word. -/
theorem decodedWordIsItsEncoding : Obligations.DecodedWordIsItsEncoding :=
  fun _ _ h => ⟨wellFormed_of_decode h, encode_of_decode h⟩

/-! ### Words that do not decode (R75) -/

theorem fieldOp_eq_div (w : Word) : fieldOp w = w.toNat / 0x1000 := by
  have := w.isLt
  simp only [fieldOp, BitVec.extractLsb'_toNat, Nat.shiftRight_eq_div_pow]
  omega

theorem fieldN_eq_mod (w : Word) : fieldN w = w.toNat % 0x10 := by
  simp [fieldN, BitVec.extractLsb'_toNat]

theorem toNat_fieldNN (w : Word) : (fieldNN w).toNat = w.toNat % 0x100 := by
  simp [fieldNN, BitVec.extractLsb'_toNat]

theorem decodeGroup0_eq_error {w : Word} {e : DecodeError} :
    decodeGroup0 w = .error e ↔ (w ≠ 0x00E0#16 ∧ w ≠ 0x00EE#16) ∧ e = .unknownOpcode := by
  unfold decodeGroup0
  split_ifs <;> simp_all [eq_comm]

theorem decodeZeroNibble_eq_error {w : Word} {i : Instr} {e : DecodeError} :
    decodeZeroNibble w i = .error e ↔ fieldN w ≠ 0 ∧ e = .malformedOperand := by
  unfold decodeZeroNibble
  split_ifs <;> simp_all [eq_comm]

theorem decodeGroup8_eq_error {w : Word} {e : DecodeError} :
    decodeGroup8 w = .error e ↔ fieldN w ∈ [0x8, 0x9, 0xA, 0xB, 0xC, 0xD, 0xF] ∧ e = .unknownOpcode := by
  unfold decodeGroup8
  split
  case h_10 =>
    have := fieldN_lt w
    have : fieldN w ∈ [0x8, 0x9, 0xA, 0xB, 0xC, 0xD, 0xF] := by
      simp only [imp_false, List.mem_cons, List.not_mem_nil] at *
      omega
    simp [this, eq_comm]
  all_goals simp [*]

theorem decodeGroupE_eq_error {w : Word} {e : DecodeError} :
    decodeGroupE w = .error e ↔ (fieldNN w).toNat ∉ [0x9E, 0xA1] ∧ e = .unknownOpcode := by
  unfold decodeGroupE
  split_ifs <;> simp_all [← BitVec.toNat_inj, eq_comm]

theorem decodeGroupF_eq_error {w : Word} {e : DecodeError} :
    decodeGroupF w = .error e ↔
      (fieldNN w).toNat ∉ [0x07, 0x0A, 0x15, 0x18, 0x1E, 0x29, 0x33, 0x55, 0x65] ∧ e = .unknownOpcode := by
  unfold decodeGroupF
  split_ifs <;> simp_all [← BitVec.toNat_inj, eq_comm]

/-- The malformed words and the unknown words of R75 are those that do not decode, each with its own error. -/
theorem decode_eq_error {w : Word} {e : DecodeError} :
    decode w = .error e ↔
      (Claims.isMalformed w.toNat ∧ e = .malformedOperand) ∨ (Claims.isUnknown w.toNat ∧ e = .unknownOpcode) := by
  have hop := fieldOp_eq_div w
  have hword (c : Word) : w = c ↔ w.toNat = c.toNat := BitVec.toNat_inj.symm
  simp only [Claims.isMalformed, Claims.isUnknown, ← hop, ← fieldN_eq_mod, ← toNat_fieldNN]
  unfold decode
  split
  case h_1 h => simp [h, decodeGroup0_eq_error, hword]
  case h_6 h | h_10 h => simp [h, decodeZeroNibble_eq_error]
  case h_9 h => simp [h, decodeGroup8_eq_error]
  case h_15 h => simp [h, decodeGroupE_eq_error]
  case h_16 =>
    have h : fieldOp w = 0xF := by
      have := fieldOp_lt w
      simp only [imp_false] at *
      omega
    simp [h, decodeGroupF_eq_error]
  case h_2 h | h_3 h | h_4 h | h_5 h | h_7 h | h_8 h | h_11 h | h_12 h | h_13 h | h_14 h => simp [h]

end Sys2Proof

namespace Sys2Proof.Machine

open Sys2Proof.Claims

/-- A word that does not decode ends the step with its fault (R93). -/
theorem step_of_decode_error {s : State} {e : DecodeError} (hpc : s.pc.toNat ≤ 0xFFE)
    (hd : decode s.opcodeAtPc = .error e) : step s = .fault (decodeFault s.pc s.opcodeAtPc e) := by
  rcases fetchDecode_cases s with ⟨hout, -⟩ | ⟨-, ⟨i, hok, -⟩ | ⟨e', he', hf⟩⟩
  · omega
  · simp [hd] at hok
  · obtain rfl : e = e' := by simpa [hd] using he'
    simp [step, hf, raise]

/-- Settles O5: the error of the decoder is the fault of the step. -/
theorem illegalOpcodesFaultAsTheTableSays : Obligations.IllegalOpcodesFaultAsTheTableSays := by
  refine fun s hpc => ⟨fun hm => ?_, fun hu => ?_, fun hm hu => ?_⟩
  · exact step_of_decode_error hpc (decode_eq_error.mpr (.inl ⟨hm, rfl⟩))
  · exact step_of_decode_error hpc (decode_eq_error.mpr (.inr ⟨hu, rfl⟩))
  · cases hd : decode s.opcodeAtPc with
    | ok i => exact ⟨i, rfl⟩
    | error e =>
      rcases decode_eq_error.mp hd with ⟨hm', -⟩ | ⟨hu', -⟩
      · exact absurd hm' hm
      · exact absurd hu' hu

/-! ### The rows of the opcode map (R74, R76) -/

/-- No word matches two rows: some bit that both rows fix they fix differently. -/
theorem opcodeMap_conflict : opcodeMap.Pairwise fun r r' => r.1 &&& r'.2 ≠ r'.1 &&& r.2 := by decide

/-- Rows that match one word agree on the bits both fix. -/
theorem and_mask_eq_of_match {w : Word} {r r' : Word × Word} (h : w &&& r.2 = r.1) (h' : w &&& r'.2 = r'.1) :
    r.1 &&& r'.2 = r'.1 &&& r.2 := by
  rw [← h, ← h', BitVec.and_assoc, BitVec.and_assoc, BitVec.and_comm r.2]

/-- The rows of the opcode map that a word matches. -/
def matchingRows (w : Word) : List (Word × Word) := opcodeMap.filter fun row => w &&& row.2 == row.1

theorem mem_matchingRows {w : Word} {row : Word × Word} :
    row ∈ matchingRows w ↔ row ∈ opcodeMap ∧ w &&& row.2 = row.1 := by
  simp [matchingRows]

theorem length_matchingRows_le_one (w : Word) : (matchingRows w).length ≤ 1 := by
  have hconflict : (matchingRows w).Pairwise fun r r' => r.1 &&& r'.2 ≠ r'.1 &&& r.2 := opcodeMap_conflict.filter _
  have hmatch : ∀ row ∈ matchingRows w, w &&& row.2 = row.1 := fun _ hrow => (mem_matchingRows.mp hrow).2
  match matchingRows w, hconflict, hmatch with
  | [], _, _ | [_], _, _ => simp
  | r :: r' :: _, hconflict, hmatch =>
    have hagree := and_mask_eq_of_match (hmatch r (by simp)) (hmatch r' (by simp))
    exact absurd hagree (List.rel_of_pairwise_cons hconflict (by simp))

/-! What each mask keeps of each format. -/

theorem formNNN_and_op (op : BitVec 4) (nnn : Word) : formNNN op nnn &&& 0xF000#16 = op ++ 0#12 := by
  have hmask : 0xF000#16 = BitVec.allOnes 4 ++ 0#12 := by decide
  rw [hmask, formNNN, BitVec.and_append, BitVec.and_allOnes, BitVec.and_zero]

theorem formXNN_and_op (op : BitVec 4) (x : RegIdx) (nn : Byte) :
    formXNN op x nn &&& 0xF000#16 = op ++ 0#4 ++ 0#8 := by
  have hmask : 0xF000#16 = BitVec.allOnes 4 ++ 0#4 ++ 0#8 := by decide
  rw [hmask, formXNN, BitVec.and_append, BitVec.and_append, BitVec.and_allOnes, BitVec.and_zero, BitVec.and_zero]

theorem formXNN_and_op_nn (op : BitVec 4) (x : RegIdx) (nn : Byte) :
    formXNN op x nn &&& 0xF0FF#16 = op ++ 0#4 ++ nn := by
  have hmask : 0xF0FF#16 = BitVec.allOnes 4 ++ 0#4 ++ BitVec.allOnes 8 := by decide
  rw [hmask, formXNN, BitVec.and_append, BitVec.and_append, BitVec.and_allOnes, BitVec.and_allOnes, BitVec.and_zero]

theorem formXYN_and_op (op : BitVec 4) (x y : RegIdx) (n : BitVec 4) :
    formXYN op x y n &&& 0xF000#16 = op ++ 0#4 ++ 0#4 ++ 0#4 := by
  have hmask : 0xF000#16 = BitVec.allOnes 4 ++ 0#4 ++ 0#4 ++ 0#4 := by decide
  rw [hmask, formXYN, BitVec.and_append, BitVec.and_append, BitVec.and_append, BitVec.and_allOnes, BitVec.and_zero,
    BitVec.and_zero, BitVec.and_zero]

theorem formXYN_and_op_n (op : BitVec 4) (x y : RegIdx) (n : BitVec 4) :
    formXYN op x y n &&& 0xF00F#16 = op ++ 0#4 ++ 0#4 ++ n := by
  have hmask : 0xF00F#16 = BitVec.allOnes 4 ++ 0#4 ++ 0#4 ++ BitVec.allOnes 4 := by decide
  rw [hmask, formXYN, BitVec.and_append, BitVec.and_append, BitVec.and_append, BitVec.and_allOnes,
    BitVec.and_allOnes, BitVec.and_zero, BitVec.and_zero]

/-- The encoding of an instruction matches the row of its pattern. -/
theorem exists_row_of_encode (i : Instr) : ∃ row ∈ opcodeMap, encode i &&& row.2 = row.1 := by
  cases i with
  | cls => exact ⟨(0x00E0, 0xFFFF), by decide, rfl⟩
  | ret => exact ⟨(0x00EE, 0xFFFF), by decide, rfl⟩
  | jp nnn | call nnn | ldI nnn | jpV0 nnn => exact ⟨(_, 0xF000), by decide, formNNN_and_op _ _⟩
  | seImm x nn | sneImm x nn | ldImm x nn | addImm x nn | rnd x nn =>
    exact ⟨(_, 0xF000), by decide, formXNN_and_op _ _ _⟩
  | seReg x y | sneReg x y | ldReg x y | orReg x y | andReg x y | xorReg x y | addReg x y | sub x y | shr x y
  | subn x y | shl x y => exact ⟨(_, 0xF00F), by decide, formXYN_and_op_n _ _ _ _⟩
  | drw x y n => exact ⟨(_, 0xF000), by decide, formXYN_and_op _ _ _ _⟩
  | skp x | sknp x | ldVxDt x | ldVxKey x | ldDtVx x | ldStVx x | addI x | ldFont x | ldBcd x | storeRegs x
  | loadRegs x => exact ⟨(_, 0xF0FF), by decide, formXNN_and_op_nn _ _ _⟩

/-- A row that fixes a field gives it to every word that matches. -/
theorem extract_of_match {w : Word} {row : Word × Word} (h : w &&& row.2 = row.1) (lo n : Nat)
    (hmask : row.2.extractLsb' lo n = BitVec.allOnes n) : w.extractLsb' lo n = row.1.extractLsb' lo n := by
  rw [← h, BitVec.extractLsb'_and, hmask, BitVec.and_allOnes]

/-- Every row fixes the high nibble, and in the groups with illegal words all that selects the operation (R73). -/
theorem opcodeMap_mask : ∀ row ∈ opcodeMap,
    row.2.extractLsb' 12 4 = BitVec.allOnes 4 ∧
    (fieldOp row.1 = 0 → row.2 = BitVec.allOnes 16) ∧
    (fieldOp row.1 ∈ [5, 8, 9] → row.2.extractLsb' 0 4 = BitVec.allOnes 4) ∧
    (fieldOp row.1 ∈ [0xE, 0xF] → row.2.extractLsb' 0 8 = BitVec.allOnes 8) :=
  List.all_iff_forall_prop.mp (by decide)

theorem opcodeMap_decodes : ∀ row ∈ opcodeMap, (decode row.1).isOk = true :=
  List.all_eq_true.mp (by decide)

/-- Words that agree on what selects the operation are illegal alike. -/
theorem decode_error_congr {w w' : Word} {e : DecodeError} (hop : fieldOp w = fieldOp w')
    (hword : fieldOp w' = 0 → w = w') (hn : fieldOp w' ∈ [5, 8, 9] → fieldN w = fieldN w')
    (hnn : fieldOp w' ∈ [0xE, 0xF] → fieldNN w = fieldNN w') (h : decode w = .error e) : decode w' = .error e := by
  simp only [decode_eq_error, isMalformed, isUnknown, ← fieldOp_eq_div, ← fieldN_eq_mod, ← toNat_fieldNN, hop] at h ⊢
  rcases h with ⟨⟨hg, h⟩, he⟩ | ⟨⟨hg, h⟩ | ⟨hg, h⟩ | ⟨hg, h⟩ | ⟨hg, h⟩, he⟩
  · rw [hn (by rcases hg with hg | hg <;> simp [hg])] at h
    exact .inl ⟨⟨hg, h⟩, he⟩
  · rw [hword hg] at h
    exact .inr ⟨.inl ⟨hg, h⟩, he⟩
  · rw [hn (by simp [hg])] at h
    exact .inr ⟨.inr (.inl ⟨hg, h⟩), he⟩
  · rw [hnn (by simp [hg])] at h
    exact .inr ⟨.inr (.inr (.inl ⟨hg, h⟩)), he⟩
  · rw [hnn (by simp [hg])] at h
    exact .inr ⟨.inr (.inr (.inr ⟨hg, h⟩)), he⟩

/-- A word that matches a row decodes, for the row's own word does. -/
theorem exists_decode_of_row {w : Word} {row : Word × Word} (hrow : row ∈ opcodeMap) (h : w &&& row.2 = row.1) :
    ∃ i, decode w = .ok i := by
  cases hd : decode w with
  | ok i => exact ⟨i, rfl⟩
  | error e =>
    obtain ⟨hop, hword, hn, hnn⟩ := opcodeMap_mask row hrow
    have hrowError : decode row.1 = .error e := decode_error_congr
      (congrArg BitVec.toNat (extract_of_match h 12 4 hop))
      (fun hg => by rw [← h, hword hg, BitVec.and_allOnes])
      (fun hg => congrArg BitVec.toNat (extract_of_match h 0 4 (hn hg)))
      (fun hg => extract_of_match h 0 8 (hnn hg)) hd
    have hrowOk := opcodeMap_decodes row hrow
    rw [hrowError] at hrowOk
    cases hrowOk

/-- Settles O4: a word that decodes is an encoding and so matches its row, and two rows never match. -/
theorem wordDecodesExactlyWhenOneRowMatches : Obligations.WordDecodesExactlyWhenOneRowMatches := by
  intro w
  have hle := length_matchingRows_le_one w
  change (_ ↔ (matchingRows w).length = 1) ∧ (matchingRows w).length ≤ 1
  refine ⟨⟨fun ⟨i, hi⟩ => ?_, fun hone => ?_⟩, hle⟩
  · obtain ⟨row, hrow, hmatch⟩ := exists_row_of_encode i
    rw [encode_of_decode hi] at hmatch
    have hpos := List.length_pos_of_mem (mem_matchingRows.mpr ⟨hrow, hmatch⟩)
    omega
  · obtain ⟨row, hrow⟩ := List.exists_mem_of_length_pos (hone ▸ Nat.one_pos)
    obtain ⟨hmem, hmatch⟩ := mem_matchingRows.mp hrow
    exact exists_decode_of_row hmem hmatch

/-! ### No step is refused (R95) -/

theorem exec_ne_refused (i : Instr) (s : State) (r : Refusal) : exec i s ≠ .refused r := by
  cases i with
  | ret =>
    simp only [exec, execRet]
    split <;> simp
  | call nnn =>
    simp only [exec, execCall]
    split <;> simp
  | skp x =>
    simp only [exec, execSkp]
    split <;> simp
  | sknp x =>
    simp only [exec, execSknp]
    split <;> simp
  | ldVxKey x =>
    simp only [exec, execLdVxKey]
    split <;> simp
  | drw x y n | ldBcd x | storeRegs x | loadRegs x => exact checkedAccess_ne_refused _ _ _ _ _
  | cls | jp nnn | seImm x nn | sneImm x nn | seReg x y | sneReg x y | ldImm x nn | addImm x nn | ldReg x y
  | orReg x y | andReg x y | xorReg x y | addReg x y | sub x y | shr x y | subn x y | shl x y | ldI nnn | jpV0 nnn
  | rnd x nn | ldVxDt x | ldDtVx x | ldStVx x | addI x | ldFont x => exact nofun

/-- Settles O7: a step ends before `exec` in a fault, or it is `exec`. -/
theorem noStepIsRefused : Obligations.NoStepIsRefused := by
  intro s r
  unfold step
  split
  · exact raise_ne_refused _ r
  · exact exec_ne_refused _ s r

end Sys2Proof.Machine
end

section
/-!
PROOFS of the statements about the instruction cycle (spec/40_cycle.md). First the step as `exec` of the decoded
instruction; then the instructions with no check; then FX0A with no key pressed; last the table of pc updates.
-/

namespace Sys2Proof.Machine

open Sys2Proof.Claims

/-! ### The step (R91, R92, R97) -/

theorem step_of_pc_out {s : State} (hpc : s.pc.toNat > 0xFFE) : step s = .fault (.programCounterOutOfBounds s.pc) := by
  rcases fetchDecode_cases s with ⟨-, hf⟩ | ⟨hin, -⟩
  · simp [step, hf, raise]
  · omega

/-- A word that decodes makes the step `exec` of its instruction, with nothing around it (R97). -/
theorem step_of_decode_ok {s : State} {i : Instr} (hpc : s.pc.toNat ≤ 0xFFE) (hd : decode s.opcodeAtPc = .ok i) :
    step s = exec i s := by
  rcases fetchDecode_cases s with ⟨hout, -⟩ | ⟨-, ⟨j, hj, hf⟩ | ⟨e, he, -⟩⟩
  · omega
  · obtain rfl : i = j := by simpa [hd] using hj
    simp [step, hf]
  · simp [hd] at he

/-- Settles O6: the word of the statement is `opcodeAtPc`, and the step follows its decoding. -/
theorem stepRunsTheDecodedInstruction : Obligations.StepRunsTheDecodedInstruction := by
  refine fun s => ⟨step_of_pc_out, fun hpc w hw => ?_⟩
  obtain rfl : w = s.opcodeAtPc := hw
  exact ⟨fun _ => step_of_decode_ok hpc, step_of_decode_error hpc, step_of_decode_error hpc⟩

/-! ### The instructions with no check (R94) -/

theorem exec_ldVxKey_completes (x : RegIdx) (s : State) : ∃ t, exec (.ldVxKey x) s = .next t := by
  cases hkey : s.leastPressed with
  | none => exact ⟨s, exec_ldVxKey_next.mpr (.inl ⟨hkey, rfl⟩)⟩
  | some k => exact ⟨_, exec_ldVxKey_next.mpr (.inr ⟨k, hkey, rfl⟩)⟩

/-- Settles O8: outside R94's list an arm of `exec` answers a next state outright, but for FX0A, which does so whether a
key is pressed or not. -/
theorem instructionsWithoutCheckComplete : Obligations.InstructionsWithoutCheckComplete := by
  intro i s hi
  cases i with
  | ret | call nnn | drw x y n | ldBcd x | storeRegs x | loadRegs x | skp x | sknp x => cases hi
  | ldVxKey x => exact exec_ldVxKey_completes x s
  | cls | jp nnn | seImm x nn | sneImm x nn | seReg x y | sneReg x y | ldImm x nn | addImm x nn | ldReg x y
  | orReg x y | andReg x y | xorReg x y | addReg x y | sub x y | shr x y | subn x y | shl x y | ldI nnn | jpV0 nnn
  | rnd x nn | ldVxDt x | ldDtVx x | ldStVx x | addI x | ldFont x => exact ⟨_, rfl⟩

/-! ### FX0A with no key pressed (R98) -/

theorem mem_allKeys : ∀ k : KeyIdx, k ∈ allKeys := by decide

theorem leastPressed_eq_none {s : State} : s.leastPressed = none ↔ ∀ k : KeyIdx, s.key[k.val] = false := by
  simp [State.leastPressed, State.pressed, mem_allKeys]

/-- Steps from a state that steps to itself leave the run as it was. -/
theorem performAll_replicate_step {s : State} (h : step s = .next s) (f : Option Fault) (n : Nat) :
    Session.performAll (List.replicate n .step) ⟨s, f⟩ = ⟨s, f⟩ := by
  have hperform : Session.perform .step ⟨s, f⟩ = ⟨s, f⟩ := by simp [Session.perform, perform, h, HostOp.startsRun]
  induction n with
  | zero => rfl
  | succ n ih => rw [List.replicate_succ, Session.performAll, hperform, ih]

/-- Settles O49: FX0A answers the state it ran from, so each step fetches it again. -/
theorem keyWaitWithNoKeyChangesNothing : Obligations.KeyWaitWithNoKeyChangesNothing := by
  intro x s hkeys
  have hexec : exec (.ldVxKey x) s = .next s := exec_ldVxKey_next.mpr (.inl ⟨leastPressed_eq_none.mpr hkeys, rfl⟩)
  refine ⟨hexec, fun hpc hdecode n f => performAll_replicate_step ?_ f n⟩
  rw [step_of_decode_ok hpc hdecode, hexec]

/-! ### The pc updates in exact numbers (R96) -/

/-- The advance of a state does not wrap from a pc in the fetchable range. -/
theorem toNat_advance_pc {u : State} {pc : Word} (hpc : pc.toNat ≤ 0xFFE) (hu : u.pc = pc) :
    u.advance.pc.toNat = pc.toNat + 2 := by
  rw [State.advance_pc, hu]
  bv_omega

/-- From a fetchable pc a skip does not wrap, whatever its condition. -/
theorem toNat_skipIf_pc {s : State} (hpc : s.pc.toNat ≤ 0xFFE) {c : Bool} {p : Prop} [Decidable p]
    (hc : c = true ↔ p) : (s.skipIf c).pc.toNat = s.pc.toNat + (if p then 4 else 2) := by
  simp only [State.skipIf_pc, hc]
  split <;> bv_omega

theorem pressed_eq_iff {s : State} {n : Nat} (hn : n < 16) {b : Bool} :
    s.pressed ⟨n, hn⟩ = b ↔ s.key[n]? = some b := by
  simp [State.pressed, hn]

theorem leastPressed_eq_none_iff_not_mem {s : State} : s.leastPressed = none ↔ true ∉ s.key.toList := by
  simp [leastPressed_eq_none, Vector.mem_iff_getElem, Fin.forall_iff]

/-- The top entry of the stack in use, read as the table of R96 reads it. -/
theorem getD_stack_of_pop {s u : State} {w : Word} (h : s.pop = some (w, u)) :
    s.stack.toList.getD (s.sp.val - 1) 0 = w := by
  obtain ⟨hsp, rfl, -⟩ := pop_eq_some.mp h
  have hlt : s.sp.val - 1 < 16 := by omega
  simp [hlt]

/-- The pc after an instruction that completes is the number in its row of R96. -/
theorem toNat_pc_of_exec {i : Instr} {s t : State} (h : exec i s = .next t) (hpc : s.pc.toNat ≤ 0xFFE)
    (hstack : ∀ k : Fin 16, s.stack[k.val].toNat ≤ 0xFFE) (hi : i.wellFormed = true) : t.pc.toNat = nextPc s i := by
  cases i with
  | ret =>
    obtain ⟨w, u, hpop, rfl⟩ := exec_ret_next.mp h
    obtain ⟨_, hw, _⟩ := pop_eq_some.mp hpop
    have hle : w.toNat ≤ 0xFFE := hw ▸ hstack ⟨s.sp.val - 1, by omega⟩
    rw [nextPc, getD_stack_of_pop hpop, toNat_advance_pc hle (State.jump_pc u w)]
  | jp nnn =>
    cases h
    rfl
  | call nnn =>
    obtain ⟨_, _, rfl⟩ := exec_call_next.mp h
    rfl
  | jpV0 nnn =>
    cases h
    have hnnn : nnn.toNat ≤ 0xFFF := of_decide_eq_true hi
    have hv0 := (s.reg V0).isLt
    simp only [State.jump_pc, nextPc, State.v0Target, BitVec.toNat_add, BitVec.toNat_setWidth]
    omega
  | seImm x nn | seReg x y =>
    cases h
    exact toNat_skipIf_pc hpc beq_iff_eq
  | sneImm x nn | sneReg x y =>
    cases h
    exact toNat_skipIf_pc hpc bne_iff_ne
  | skp x =>
    obtain ⟨hx, rfl⟩ := exec_skp_next.mp h
    exact toNat_skipIf_pc hpc (pressed_eq_iff hx)
  | sknp x =>
    obtain ⟨hx, rfl⟩ := exec_sknp_next.mp h
    exact toNat_skipIf_pc hpc (by rw [Bool.not_eq_true', pressed_eq_iff hx])
  | ldVxKey x =>
    obtain ⟨hnone, rfl⟩ | ⟨k, hsome, rfl⟩ := exec_ldVxKey_next.mp h
    · exact (if_neg (leastPressed_eq_none_iff_not_mem.mp hnone)).symm
    · have hmem : true ∈ s.key.toList := by simpa [hsome] using leastPressed_eq_none_iff_not_mem (s := s)
      rw [nextPc, if_pos hmem, toNat_advance_pc hpc (State.setReg_pc _ _ _)]
  | sub x y | shr x y | subn x y | shl x y =>
    cases h
    exact toNat_advance_pc hpc (by rw [writeFlagAndDest_eq])
  | ldBcd x | storeRegs x =>
    obtain ⟨_, rfl⟩ := checkedAccess_next.mp h
    exact toNat_advance_pc hpc (writeBytes_pc _ _ _)
  | loadRegs x =>
    obtain ⟨_, rfl⟩ := checkedAccess_next.mp h
    exact toNat_advance_pc hpc (by rw [foldl_setReg_eq])
  | drw x y n =>
    obtain ⟨_, rfl⟩ := checkedAccess_next.mp h
    exact toNat_advance_pc hpc rfl
  | cls | ldImm x nn | addImm x nn | ldReg x y | orReg x y | andReg x y | xorReg x y | addReg x y | ldI nnn
  | rnd x nn | ldVxDt x | ldDtVx x | ldStVx x | addI x | ldFont x =>
    cases h
    exact toNat_advance_pc hpc rfl

/-- Settles O10: the pc is the number in the table, and the bound on the one is the bound on the other. -/
theorem pcUpdateFollowsTheTable : Obligations.PcUpdateFollowsTheTable := by
  rintro i s t ⟨-, -, hstack⟩ hpc hi hexec
  have htable := toNat_pc_of_exec hexec hpc hstack hi
  exact ⟨htable, htable ▸ (exec_pcUpdate hexec).toNat_le hpc hstack hi⟩

end Sys2Proof.Machine
end

section
/-!
PROOFS of the statements about the display (spec/41_display.md). First 00E0; then what drawing does to a canvas, from
one pixel over one row to a whole sprite; then DXYN, once and twice.
-/

namespace Sys2Proof.Machine

open Sys2Proof.Claims

/-! ### 00E0 (R110) -/

/-- Settles O20: the effect is the update of `execCls`, the rest is the frame. -/
theorem clsClearsEveryCellAndSetsDraw : Obligations.ClsClearsEveryCellAndSetsDraw := by
  refine ⟨rfl, fun s => ?_⟩
  have hexec : exec .cls s = .next { s with fb := 0, draw := true }.advance := rfl
  exact ⟨_, hexec, rfl, ⟨fun _ => BitVec.getLsbD_zero, rfl⟩, (exec_dataFrame hexec).frameOf⟩

/-! ### Wrapped offsets (R111) -/

/-- How far a position lies beyond a start, on an axis that wraps. -/
def wrapOffset (size start pos : Nat) : Nat := (pos + size - start) % size

/-- A position is the start plus its offset, wrapped. -/
theorem wrapOffset_eq_iff {size start pos k : Nat} (hstart : start < size) (hpos : pos < size) (hk : k < size) :
    wrapOffset size start pos = k ↔ pos = (start + k) % size := by
  have hoffset : wrapOffset size start pos = if start ≤ pos then pos - start else pos + size - start := by
    unfold wrapOffset
    split
    · rw [Nat.sub_add_comm ‹_›, Nat.add_mod_right, Nat.mod_eq_of_lt (by omega)]
    · exact Nat.mod_eq_of_lt (by omega)
  rw [hoffset, Nat.add_mod_eq_ite, Nat.mod_eq_of_lt hstart, Nat.mod_eq_of_lt hk]
  split <;> split <;> omega

/-! ### Drawing pixels on a canvas (R112) -/

/-- From one canvas to another exactly the pixels of a set were flipped, and a hit was reported exactly if one of them
was 1. -/
structure Draws (pixels : Nat → Nat → Bool) (before after : Canvas) : Prop where
  cell : ∀ {cx cy}, cx < 64 → cy < 32 →
    after.1.getLsbD (cellIndex cx cy) = (before.1.getLsbD (cellIndex cx cy) ^^ pixels cx cy)
  hit : after.2 = true ↔ before.2 = true ∨
    ∃ cx cy, cx < 64 ∧ cy < 32 ∧ before.1.getLsbD (cellIndex cx cy) = true ∧ pixels cx cy = true

namespace Draws

variable {p q : Nat → Nat → Bool} {a b c : Canvas}

theorem congr (h : Draws p a b) (hpq : ∀ {cx cy}, cx < 64 → cy < 32 → p cx cy = q cx cy) : Draws q a b where
  cell hx hy := hpq hx hy ▸ h.cell hx hy
  hit := by
    refine h.hit.trans (or_congr_right (exists₂_congr fun cx cy => ?_))
    exact and_congr_right fun hx => and_congr_right fun hy => by rw [hpq hx hy]

/-- A canvas left as it is has no pixel drawn. -/
theorem refl (a : Canvas) : Draws (fun _ _ => false) a a where
  cell _ _ := by simp
  hit := by simp

/-- Sets without a common pixel are drawn one after the other as their union: the first leaves the cells of the second
as they were. -/
theorem trans (hp : Draws p a b) (hq : Draws q b c)
    (hdisjoint : ∀ {cx cy}, cx < 64 → cy < 32 → p cx cy = true → q cx cy = false) :
    Draws (fun cx cy => p cx cy || q cx cy) a c where
  cell {cx cy} hx hy := by
    rw [hq.cell hx hy, hp.cell hx hy]
    cases hpx : p cx cy with
    | false => simp
    | true => simp [hdisjoint hx hy hpx]
  hit := by
    have hkept : ∀ {cx cy}, cx < 64 → cy < 32 → q cx cy = true →
        b.1.getLsbD (cellIndex cx cy) = a.1.getLsbD (cellIndex cx cy) := by
      intro cx cy hx hy hqx
      have hpx : p cx cy = false := Bool.eq_false_iff.mpr fun hpx => by simp [hdisjoint hx hy hpx] at hqx
      simp [hp.cell hx hy, hpx]
    rw [hq.hit, hp.hit]
    constructor
    · rintro ((ha | ⟨cx, cy, hx, hy, hcell, hpx⟩) | ⟨cx, cy, hx, hy, hcell, hqx⟩)
      · exact .inl ha
      · exact .inr ⟨cx, cy, hx, hy, hcell, by simp [hpx]⟩
      · exact .inr ⟨cx, cy, hx, hy, hkept hx hy hqx ▸ hcell, by simp [hqx]⟩
    · rintro (ha | ⟨cx, cy, hx, hy, hcell, hpq⟩)
      · exact .inl (.inl ha)
      · rcases (Bool.or_eq_true _ _).mp hpq with hpx | hqx
        · exact .inl (.inr ⟨cx, cy, hx, hy, hcell, hpx⟩)
        · exact .inr ⟨cx, cy, hx, hy, (hkept hx hy hqx).trans hcell, hqx⟩

end Draws

/-- One pixel draws itself if its bit is 1. -/
theorem drawPixel_draws (canvas : Canvas) (bit : Bool) {px py : Nat} (hx : px < 64) (hy : py < 32) :
    Draws (fun cx cy => bit && decide (cx = px ∧ cy = py)) canvas (drawPixel canvas bit (cellIndex px py)) where
  cell {cx cy} hcx hcy := by
    rw [drawPixel_getLsbD _ _ (cellIndex_lt hx hy)]
    simp only [cellIndex_inj hcx hx]
  hit := by
    rw [drawPixel_hit]
    constructor
    · intro h
      rcases (Bool.or_eq_true _ _).mp h with h | h
      · exact .inl h
      · obtain ⟨hbit, hcell⟩ := (Bool.and_eq_true _ _).mp h
        exact .inr ⟨px, py, hx, hy, hcell, by simp [hbit]⟩
    · rintro (h | ⟨cx, cy, -, -, hcell, hpixel⟩)
      · simp [h]
      · simp only [Bool.and_eq_true, decide_eq_true_eq] at hpixel
        obtain ⟨hbit, rfl, rfl⟩ := hpixel
        simp [hbit, hcell]

/-! ### Drawing rows of a sprite (R111, R112) -/

/-- The pixels of one sprite row in the columns of a list, at frame-buffer row `y`. -/
def rowPixels (b : Byte) (x0 y : Nat) (cols : List Nat) (cx cy : Nat) : Bool :=
  decide (cy = y) && (decide (wrapOffset 64 x0 cx ∈ cols) && spriteBit b (wrapOffset 64 x0 cx))

/-- Different columns of a row are drawn one after the other, each at its own pixel. -/
theorem drawColumns_draws (b : Byte) {x0 y : Nat} (hx0 : x0 < 64) (hy : y < 32) {cols : List Nat} (hnodup : cols.Nodup)
    (hcols : ∀ c ∈ cols, c < 8) (canvas : Canvas) :
    Draws (rowPixels b x0 y cols) canvas
      (cols.foldl (fun cv c => drawPixel cv (spriteBit b c) (cellIndex ((x0 + c) % 64) y)) canvas) := by
  induction cols generalizing canvas with
  | nil => exact (Draws.refl canvas).congr fun _ _ => by simp [rowPixels]
  | cons c rest ih =>
    obtain ⟨hc, hrest⟩ := List.forall_mem_cons.mp hcols
    obtain ⟨hnotin, hnodup⟩ := List.nodup_cons.mp hnodup
    have hcol {cx : Nat} (hcx : cx < 64) : cx = (x0 + c) % 64 ↔ wrapOffset 64 x0 cx = c :=
      (wrapOffset_eq_iff hx0 hcx (by omega)).symm
    have hfirst := drawPixel_draws canvas (spriteBit b c) (Nat.mod_lt (x0 + c) (by decide : 64 > 0)) hy
    refine (hfirst.trans (ih hnodup hrest _) fun {cx cy} hcx _ hpixel => ?_).congr fun {cx cy} hcx _ => ?_
    · simp only [Bool.and_eq_true, decide_eq_true_eq, hcol hcx] at hpixel
      obtain ⟨-, hoffset, -⟩ := hpixel
      simp [rowPixels, hoffset, hnotin]
    · by_cases hoffset : wrapOffset 64 x0 cx = c
      · simp [rowPixels, hcol hcx, hoffset, hnotin, Bool.and_comm]
      · simp [rowPixels, hcol hcx, hoffset]

theorem drawRow_draws (b : Byte) {x0 y : Nat} (hx0 : x0 < 64) (hy : y < 32) (canvas : Canvas) :
    Draws (rowPixels b x0 y (List.range 8)) canvas (drawRow canvas b x0 y) :=
  drawColumns_draws b hx0 hy List.nodup_range (fun _ => List.mem_range.mp) canvas

/-- The pixels of the sprite rows `r` to `r + n - 1`, the sprite's row 0 being the byte at `base`. -/
def rowsPixels (s : State) (base x0 y0 r n cx cy : Nat) : Bool :=
  decide (r ≤ wrapOffset 32 y0 cy ∧ wrapOffset 32 y0 cy < r + n) &&
    (decide (wrapOffset 64 x0 cx < 8) && spriteBit (s.readByte (base + wrapOffset 32 y0 cy)) (wrapOffset 64 x0 cx))

/-- Rows of different numbers below 32 are drawn one after the other, each at its own row of the frame buffer. -/
theorem drawRows_draws (s : State) (base : Nat) {x0 y0 : Nat} (hx0 : x0 < 64) (hy0 : y0 < 32) {r n : Nat}
    (hn : r + n ≤ 32) (canvas : Canvas) :
    Draws (rowsPixels s base x0 y0 r n) canvas (drawRows x0 y0 r (s.readBytes (base + r) n) canvas) := by
  induction n generalizing r canvas with
  | zero => exact (Draws.refl canvas).congr fun _ _ => by simp [rowsPixels]
  | succ n ih =>
    have hrow {cy : Nat} (hcy : cy < 32) : cy = (y0 + r) % 32 ↔ wrapOffset 32 y0 cy = r :=
      (wrapOffset_eq_iff hy0 hcy (by omega)).symm
    have hfirst := drawRow_draws (s.readByte (base + r)) hx0 (Nat.mod_lt (y0 + r) (by decide : 32 > 0)) canvas
    refine (hfirst.trans (ih (r := r + 1) (by omega) _) fun {cx cy} _ hcy hpixel => ?_).congr fun {cx cy} _ hcy => ?_
    · simp only [rowPixels, Bool.and_eq_true, decide_eq_true_eq, hrow hcy] at hpixel
      obtain ⟨hoffset, -⟩ := hpixel
      simp [rowsPixels, hoffset]
    · by_cases hoffset : wrapOffset 32 y0 cy = r
      · simp [rowPixels, rowsPixels, hrow hcy, hoffset]
      · have hrange : r ≤ wrapOffset 32 y0 cy ∧ wrapOffset 32 y0 cy < r + (n + 1) ↔
            r + 1 ≤ wrapOffset 32 y0 cy ∧ wrapOffset 32 y0 cy < r + 1 + n := by omega
        simp only [rowPixels, rowsPixels, hrow hcy, hoffset, hrange, decide_false, Bool.false_and, Bool.false_or]

/-- What a sprite covers in the statements is its rows from 0 on, from the byte at `I`. -/
theorem spriteCovers_eq_rowsPixels (s : State) (x y : RegIdx) (n cx cy : Nat) :
    spriteCovers s x y n cx cy = rowsPixels s s.i.toNat (s.spriteX x) (s.spriteY y) 0 n cx cy := by
  simp only [rowsPixels, Nat.zero_le, true_and, Nat.zero_add]
  exact Bool.and_assoc _ _ _

theorem drawSprite_draws (s : State) (x y : RegIdx) {n : Nat} (hn : n ≤ 15) :
    Draws (spriteCovers s x y n) (s.fb, false) (s.drawSprite x y n) := by
  have hx : s.spriteX x < 64 := Nat.mod_lt _ (by decide)
  have hy : s.spriteY y < 32 := Nat.mod_lt _ (by decide)
  exact (drawRows_draws s s.i.toNat hx hy (by omega) _).congr fun _ _ => (spriteCovers_eq_rowsPixels s x y n _ _).symm

/-! ### DXYN (R112) -/

theorem flagByte_eq_one {c : Bool} : flagByte c = 1 ↔ c = true := by
  cases c <;> decide

theorem flagByte_eq_zero_or_one (c : Bool) : flagByte c = 0 ∨ flagByte c = 1 := by
  cases c <;> decide

theorem exec_drw_next {x y : RegIdx} {n : Nat} {s t : State} :
    exec (.drw x y n) s = .next t ↔ s.lastSpriteAddr n ≤ 0xFFF ∧
      ({ s with fb := (s.drawSprite x y n).1, draw := true }.setReg VF (flagByte (s.drawSprite x y n).2)).advance = t :=
  checkedAccess_next

theorem lastSpriteAddr_le {s : State} {n : Nat} (h : n = 0 ∨ s.i.toNat + n - 1 ≤ 0xFFF) :
    s.lastSpriteAddr n ≤ 0xFFF := by
  by_cases hn : n = 0
  · simp [State.lastSpriteAddr, hn]
  · rw [lastSpriteAddr_of_pos s (Nat.pos_of_ne_zero hn)]
    omega

section Drw

variable {x y : RegIdx} {n : Nat} {s t : State}

theorem cell_of_drw (h : exec (.drw x y n) s = .next t) (hn : n ≤ 15) {cx cy : Nat} (hx : cx < 64) (hy : cy < 32) :
    t.cell (cy * 64 + cx) = (s.cell (cy * 64 + cx) ^^ spriteCovers s x y n cx cy) := by
  obtain ⟨-, rfl⟩ := exec_drw_next.mp h
  exact (drawSprite_draws s x y hn).cell hx hy

theorem vf_of_drw (h : exec (.drw x y n) s = .next t) : t.reg VF = flagByte (s.drawSprite x y n).2 := by
  obtain ⟨-, rfl⟩ := exec_drw_next.mp h
  simp

theorem vf_zero_or_one_of_drw (h : exec (.drw x y n) s = .next t) : t.reg VF = 0 ∨ t.reg VF = 1 := by
  rw [vf_of_drw h]
  exact flagByte_eq_zero_or_one _

theorem vf_eq_one_of_drw (h : exec (.drw x y n) s = .next t) (hn : n ≤ 15) :
    t.reg VF = 1 ↔ ∃ cx cy, cx < 64 ∧ cy < 32 ∧ s.cell (cy * 64 + cx) = true ∧ spriteCovers s x y n cx cy = true := by
  rw [vf_of_drw h, flagByte_eq_one, (drawSprite_draws s x y hn).hit]
  simp [State.cell, cellIndex]

/-- A draw changes neither `I` nor the memory, so a second one at the same place covers the same cells. -/
theorem spriteCovers_of_drw (h : exec (.drw x y n) s = .next t)
    (hx : (t.reg x).toNat % 64 = (s.reg x).toNat % 64) (hy : (t.reg y).toNat % 32 = (s.reg y).toNat % 32) :
    spriteCovers t x y n = spriteCovers s x y n := by
  have hframe := exec_dataFrame h
  have hi : t.i = s.i := hframe.index (by simp [destParts])
  have hbytes : ∀ a, t.readByte a = s.readByte a :=
    State.readByte_congr (hframe.mem (by simp [destParts])) hframe.params
  funext cx cy
  simp only [spriteCovers, hx, hy, hi, hbytes]

end Drw

/-- The word `DXYN` written out from its pattern decodes to DRW (R74). -/
theorem decode_drw (X Y N : BitVec 4) : decode (0xD#4 ++ X ++ Y ++ N) = .ok (.drw X.toFin Y.toFin N.toNat) := by
  rw [← encode_drw]
  exact decode_encode (decide_eq_true (Nat.le_of_lt_succ N.isLt))

/-- Settles O21: the cells and VF by the rules of DXYN above, the rest by the frame. -/
theorem drwXorsTheSpriteAndReportsCollision : Obligations.DrwXorsTheSpriteAndReportsCollision := by
  intro X Y N s
  refine ⟨decode_drw X Y N, fun hfit => ?_⟩
  have hn : N.toNat ≤ 15 := Nat.le_of_lt_succ N.isLt
  have hexec : exec (.drw X.toFin Y.toFin N.toNat) s = .next _ := exec_drw_next.mpr ⟨lastSpriteAddr_le hfit, rfl⟩
  exact ⟨_, hexec, rfl, ⟨fun _ _ => cell_of_drw hexec hn, vf_zero_or_one_of_drw hexec,
    vf_eq_one_of_drw hexec hn, rfl⟩, (exec_dataFrame hexec).frameOf⟩

/-! ### DXYN twice (R113) -/

/-- Frame buffers with the same pixels are the same. -/
theorem fb_eq_of_cell_eq {s t : State}
    (h : ∀ {cx cy}, cx < 64 → cy < 32 → t.cell (cy * 64 + cx) = s.cell (cy * 64 + cx)) : t.fb = s.fb := by
  refine BitVec.eq_of_getLsbD_eq fun k hk => ?_
  have hlt : k < 2048 := hk
  have hcell : t.cell (k / 64 * 64 + k % 64) = s.cell (k / 64 * 64 + k % 64) := h (by omega) (by omega)
  rwa [Nat.div_add_mod'] at hcell

/-- Settles O23: both draws flip the same cells, and a covered cell is 1 before the second exactly if it was 0 before
the first. -/
theorem drawingTwiceRestoresTheFrameBuffer : Obligations.DrawingTwiceRestoresTheFrameBuffer := by
  intro x y n s t u hn hfirst hx hy hsecond
  have hcovers := spriteCovers_of_drw hfirst hx hy
  refine ⟨fb_eq_of_cell_eq fun hcx hcy => ?_, vf_zero_or_one_of_drw hsecond, ?_⟩
  · rw [cell_of_drw hsecond hn hcx hcy, cell_of_drw hfirst hn hcx hcy, hcovers, Bool.xor_assoc, Bool.xor_self,
      Bool.xor_false]
  · rw [vf_eq_one_of_drw hsecond hn, hcovers]
    refine exists₂_congr fun cx cy => and_congr_right fun hcx => and_congr_right fun hcy => ?_
    refine and_congr_left fun hcover => ?_
    rw [cell_of_drw hfirst hn hcx hcy, hcover, Bool.xor_true, Bool.not_eq_true']

end Sys2Proof.Machine
end

section
/-!
PROOFS of the statements about control transfer and skips (spec/42_flow.md). First the jumps and the jump to itself; then
the call, the return, and a return after its call; last the skips.
-/

namespace Sys2Proof.Machine

open Sys2Proof.Claims

/-! ### The words of format oNNN (R71, R72) -/

theorem addrFits_setWidth (NNN : BitVec 12) : addrFits (NNN.setWidth 16) = true := by
  have := NNN.isLt
  exact decide_eq_true (by rw [BitVec.toNat_setWidth]; omega)

theorem formNNN_setWidth (op : BitVec 4) (NNN : BitVec 12) : formNNN op (NNN.setWidth 16) = op ++ NNN := by
  simp [formNNN]

/-- An instruction whose encoding is the word of its pattern is what that word decodes to (R74). -/
theorem decode_eq_ok_of_encode_eq {i : Instr} {w : Word} (hi : i.wellFormed = true) (h : encode i = w) :
    decode w = .ok i :=
  h ▸ decode_encode hi

/-! ### Completing -/

/-- An instruction that answers a next state completes with its own frame. -/
theorem completes_of_exec {i : Instr} {s t : State} {pc : Word} {post : State → Prop} (h : exec i s = .next t)
    (hpc : t.pc = pc) (hpost : post t) : Completes i s pc (destRegs i) (destParts i) post :=
  ⟨t, h, hpc, hpost, (exec_dataFrame h).frameOf⟩

/-! ### Jumps (R122, R128) -/

/-- Settles O24: the word is the encoding of JP, and the effect is the jump alone. -/
theorem jpSetsPc : Obligations.JpSetsPc :=
  fun NNN _ => ⟨decode_eq_ok_of_encode_eq (addrFits_setWidth NNN) (formNNN_setWidth _ NNN),
    completes_of_exec rfl rfl trivial⟩

/-- The sum of a byte and an address of 12 bits does not wrap (R25). -/
theorem toNat_v0Target (s : State) (NNN : BitVec 12) :
    (s.v0Target (NNN.setWidth 16)).toNat = (s.reg V0).toNat + NNN.toNat := by
  have hv0 := (s.reg V0).isLt
  have hnnn := NNN.isLt
  simp only [State.v0Target, BitVec.toNat_add, BitVec.toNat_setWidth]
  omega

/-- Settles O25: the sum the jump takes is exact, so it is the word of that number. -/
theorem jpV0AddsV0Exactly : Obligations.JpV0AddsV0Exactly := by
  intro NNN s
  have htarget := toNat_v0Target s NNN
  refine ⟨decode_eq_ok_of_encode_eq (addrFits_setWidth NNN) (formNNN_setWidth _ NNN), ?_⟩
  refine completes_of_exec (t := s.jump (s.v0Target (NNN.setWidth 16))) rfl ?_ htarget
  rw [State.jump_pc, ← htarget, BitVec.ofNat_toNat, BitVec.setWidth_eq]

/-! ### The jump to itself (R233) -/

theorem step_of_selfJump {s : State} (h : s.selfJump) : step s = .next s := by
  have hfetch : s.fetchDecode = .ok (.jp s.pc) := h
  have hexec : exec (.jp s.pc) s = .next s := rfl
  simp [step, hfetch, hexec]

/-- Settles O19: the jump answers the state it ran from, so each step fetches it again. -/
theorem selfJumpChangesNoState : Obligations.SelfJumpChangesNoState :=
  fun n m h => performAll_replicate_step (step_of_selfJump h) m.mark n

/-! ### The call (R123) -/

theorem exec_call_fault {nnn : Word} {s : State} {f : Fault} :
    exec (.call nnn) s = .fault f ↔ s.sp.val = 16 ∧ .stackOverflow s.pc (encode (.call nnn)) = f := by
  simp only [exec, execCall]
  rw [← push_eq_none (w := s.pc)]
  cases s.push s.pc with
  | none => simp [raise]
  | some u => simp

/-- A push stores its value in the first free entry and takes that entry into use (R26, R27). -/
theorem stack_sp_of_push {s t : State} {w : Word} (h : s.push w = some t) :
    t.sp.val = s.sp.val + 1 ∧ t.stack[s.sp.val]? = some w ∧ ∀ k, k ≠ s.sp.val → t.stack[k]? = s.stack[k]? := by
  obtain ⟨hsp, rfl⟩ := push_eq_some.mp h
  exact ⟨rfl, Vector.getElem?_set_self hsp, fun k hk => Vector.getElem?_set_ne hsp hk.symm⟩

/-- Settles O26: below 16 entries CALL is a push and a jump, and at 16 the push has no room. -/
theorem callPushesItsOwnAddress : Obligations.CallPushesItsOwnAddress := by
  intro NNN s
  have hencode : encode (.call (NNN.setWidth 16)) = 0x2#4 ++ NNN := formNNN_setWidth _ NNN
  refine ⟨decode_eq_ok_of_encode_eq (addrFits_setWidth NNN) hencode, fun hroom => ?_, fun hfull => ?_⟩
  · have hpush : s.push s.pc = some _ := push_eq_some.mpr ⟨hroom, rfl⟩
    have hpushed := stack_sp_of_push hpush
    exact completes_of_exec (exec_call_next.mpr ⟨_, hpush, rfl⟩) rfl hpushed
  · exact exec_call_fault.mpr ⟨hfull, by rw [hencode]⟩

/-! ### The return (R121) -/

theorem exec_ret_fault {s : State} {f : Fault} :
    exec .ret s = .fault f ↔ s.sp.val = 0 ∧ .stackUnderflow s.pc (encode .ret) = f := by
  simp only [exec, execRet]
  rw [← pop_eq_none]
  cases s.pop with
  | none => simp [raise]
  | some p => simp

/-- Settles O27: with an entry in use RET is a pop, a jump and an advance, and with none the pop finds nothing. -/
theorem retReturnsAfterTheCall : Obligations.RetReturnsAfterTheCall := by
  refine ⟨decode_eq_ok_of_encode_eq rfl rfl, fun s => ⟨fun w hused htop => ?_, fun hempty => ?_⟩⟩
  · obtain ⟨_, hw⟩ := Vector.getElem?_eq_some_iff.mp htop
    have hpop : s.pop = some (w, _) := pop_eq_some.mpr ⟨hused, hw, rfl⟩
    exact completes_of_exec (exec_ret_next.mpr ⟨w, _, hpop, rfl⟩) rfl rfl
  · exact exec_ret_fault.mpr ⟨hempty, rfl⟩

/-! ### The return after its call -/

/-- A pop from the stack as a push left it takes the value pushed, and `sp` is as before the push. -/
theorem pop_of_push {s t t' : State} {w : Word} (h : s.push w = some t) (hstack : t'.stack = t.stack)
    (hsp : t'.sp = t.sp) : t'.pop = some (w, { t' with sp := s.sp }) := by
  obtain ⟨hroom, rfl⟩ := push_eq_some.mp h
  exact pop_eq_some.mpr ⟨by simp [hsp], by simp [hstack, hsp], by simp [hsp]⟩

/-- Settles O28: the pop of RET takes back what the push of CALL stored, the address of the CALL. -/
theorem returnComesBackAfterTheCall : Obligations.ReturnComesBackAfterTheCall := by
  intro nnn s t t' hcall hstack hsp
  obtain ⟨u, hpush, rfl⟩ := exec_call_next.mp hcall
  have hpop : t'.pop = some (s.pc, { t' with sp := s.sp }) := pop_of_push hpush hstack hsp
  exact ⟨_, exec_ret_next.mpr ⟨_, _, hpop, rfl⟩, rfl, rfl⟩

/-! ### Skips (R120, R124 to R127) -/

/-- An instruction that only skips on a condition has the pc of R120. -/
theorem completes_of_exec_skipIf {i : Instr} {s : State} {c : Bool} {p : Prop} [Decidable p]
    (h : exec i s = .next (s.skipIf c)) (hc : c = true ↔ p) :
    Completes i s (if p then s.pc + 4 else s.pc + 2) (destRegs i) (destParts i) fun _ => True := by
  refine completes_of_exec h ?_ trivial
  rw [State.skipIf_pc, apply_ite (s.pc + ·)]
  exact if_congr hc rfl rfl

/-- Settles O29: both instructions are a skip, on the equality and on its negation. -/
theorem skipsOnAnImmediate : Obligations.SkipsOnAnImmediate :=
  fun _ _ _ => ⟨decode_eq_ok_of_encode_eq rfl rfl, completes_of_exec_skipIf rfl beq_iff_eq,
    decode_eq_ok_of_encode_eq rfl rfl, completes_of_exec_skipIf rfl bne_iff_ne⟩

/-- A word of groups 5 and 9 with a nonzero low nibble is malformed (R75). -/
theorem decode_malformed {op : BitVec 4} (hop : op.toNat = 5 ∨ op.toNat = 9) (X Y : BitVec 4) {n : BitVec 4}
    (hn : n ≠ 0) : decode (op ++ X ++ Y ++ n) = .error .malformedOperand := by
  have hgroup : fieldOp (op ++ X ++ Y ++ n) = op.toNat := fieldOp_formXYN op X.toFin Y.toFin n
  have hnibble : fieldN (op ++ X ++ Y ++ n) = n.toNat := fieldN_formXYN op X.toFin Y.toFin n
  refine decode_eq_error.mpr (.inl ⟨⟨?_, ?_⟩, rfl⟩)
  · rwa [← fieldOp_eq_div, hgroup]
  · rw [← fieldN_eq_mod, hnibble]
    exact fun h => hn (BitVec.eq_of_toNat_eq h)

/-- Settles O30: both instructions are a skip, and a nonzero low nibble has no instruction in either group. -/
theorem skipsOnTwoRegisters : Obligations.SkipsOnTwoRegisters :=
  fun X Y _ _ => ⟨decode_eq_ok_of_encode_eq rfl rfl, completes_of_exec_skipIf rfl beq_iff_eq,
    decode_eq_ok_of_encode_eq rfl rfl, completes_of_exec_skipIf rfl bne_iff_ne,
    fun hn => ⟨decode_malformed (.inl rfl) X Y hn, decode_malformed (.inr rfl) X Y hn⟩⟩

end Sys2Proof.Machine
end

section
/-!
PROOFS of the statements about registers and arithmetic (spec/43_alu.md). First the instructions that write one
register, and 8XY4; then what the ordered writes of a flag and a destination leave, and with it the cases of 8XY5, 8XY7,
8XY6 and 8XYE; last where `P_VF_ORDER` makes no difference.
-/

namespace Sys2Proof.Machine

open Sys2Proof.Claims

/-! ### Writes of one register (R141 to R147) -/

/-- Settles O31: each is the write of one register, and a sum of bytes is one modulo 256. -/
theorem immediateLoadAndAdd : Obligations.ImmediateLoadAndAdd :=
  fun _ _ s => ⟨decode_eq_ok_of_encode_eq rfl rfl, completes_of_exec rfl rfl (s.reg_setReg_self _ _),
    decode_eq_ok_of_encode_eq rfl rfl, completes_of_exec rfl rfl
      ((congrArg BitVec.toNat (s.reg_setReg_self _ _)).trans (BitVec.toNat_add _ _))⟩

/-- Settles O32: each is the write of one register, so VF is in the frame unless it is that register (decision D17). -/
theorem registerCopyAndLogic : Obligations.RegisterCopyAndLogic :=
  fun _ _ s => ⟨decode_eq_ok_of_encode_eq rfl rfl, completes_of_exec rfl rfl (s.reg_setReg_self _ _),
    decode_eq_ok_of_encode_eq rfl rfl, completes_of_exec rfl rfl (s.reg_setReg_self _ _),
    decode_eq_ok_of_encode_eq rfl rfl, completes_of_exec rfl rfl (s.reg_setReg_self _ _),
    decode_eq_ok_of_encode_eq rfl rfl, completes_of_exec rfl rfl (s.reg_setReg_self _ _)⟩

/-! ### Flags and results as numbers (R148) -/

/-- A register field names VF exactly when its nibble is F (R21). -/
theorem toFin_eq_VF {X : BitVec 4} : X.toFin = VF ↔ X = 0xF#4 :=
  BitVec.toFin_inj (y := 0xF#4)

theorem toNat_flagByte (p : Prop) [Decidable p] : (flagByte (decide p)).toNat = if p then 1 else 0 := by
  by_cases hp : p <;> simp [flagByte, hp]

theorem toNat_sub_byte (a b : Byte) : (a - b).toNat = (256 + a.toNat - b.toNat) % 256 := by
  bv_omega

theorem toNat_lowBitFlag (b : Byte) : (lowBitFlag b).toNat = b.toNat % 2 := by
  simp [lowBitFlag, Nat.and_one_is_mod]

theorem toNat_highBitFlag (b : Byte) : (highBitFlag b).toNat = b.toNat / 128 := by
  simp [highBitFlag, Nat.shiftRight_eq_div_pow]

theorem toNat_shiftRight_one (b : Byte) : (b >>> 1).toNat = b.toNat / 2 := by
  simp [Nat.shiftRight_eq_div_pow]

theorem toNat_shiftLeft_one (b : Byte) : (b <<< 1).toNat = b.toNat * 2 % 256 := by
  simp [Nat.shiftLeft_eq]

/-! ### 8XY4 (R149) -/

/-- Settles O33: VF is written last, so it ends as the carry, and the sum stays in any other destination. -/
theorem addRegisterSetsCarry : Obligations.AddRegisterSetsCarry := by
  intro X Y s
  refine ⟨decode_eq_ok_of_encode_eq rfl rfl, completes_of_exec rfl rfl ⟨fun hX => ?_, ?_⟩⟩
  · rw [State.reg_advance, State.reg_setReg_ne _ _ (mt toFin_eq_VF.mp hX), State.reg_setReg_self]
    exact BitVec.toNat_add _ _
  · rw [State.reg_advance, State.reg_setReg_self]
    exact toNat_flagByte _

/-! ### A flag and a destination written in order (R144) -/

theorem State.setReg_comm (s : State) {r q : RegIdx} (h : r ≠ q) (b c : Byte) :
    (s.setReg r b).setReg q c = (s.setReg q c).setReg r b := by
  simp only [State.setReg]
  rw [Vector.set_comm _ _ (fun hval => h (Fin.ext hval))]

section WriteFlagAndDest

variable {s : State} {flag : Byte} {dest : RegIdx} {result : State → Byte}

@[simp] theorem pc_writeFlagAndDest : (s.writeFlagAndDest flag dest result).pc = s.pc := by
  rw [writeFlagAndDest_eq]

/-- Flag first: whatever the destination is, it ends as the result that saw the flag. -/
theorem reg_dest_of_asListed (ho : s.params.vfOrder = .asListed) :
    (s.writeFlagAndDest flag dest result).reg dest = result (s.setReg VF flag) := by
  simp [State.writeFlagAndDest, ho]

/-- Flag last: whatever the destination is, VF ends as the flag. -/
theorem reg_VF_of_flagLast (ho : s.params.vfOrder = .flagLast) :
    (s.writeFlagAndDest flag dest result).reg VF = flag := by
  simp [State.writeFlagAndDest, ho]

theorem reg_dest_of_flagLast (hd : dest ≠ VF) (ho : s.params.vfOrder = .flagLast) :
    (s.writeFlagAndDest flag dest result).reg dest = result s := by
  rw [reg_writeFlagAndDest_dest s flag result hd, ho]

/-- Where the destination is not VF and the result does not read it, both orders make the same two writes. -/
theorem writeFlagAndDest_of_VF_unused (hd : dest ≠ VF) (hflag : result (s.setReg VF flag) = result s) :
    s.writeFlagAndDest flag dest result = (s.setReg dest (result s)).setReg VF flag := by
  unfold State.writeFlagAndDest
  cases s.params.vfOrder with
  | asListed =>
    change (s.setReg VF flag).setReg dest (result (s.setReg VF flag)) = _
    rw [hflag, s.setReg_comm hd]
  | flagLast => rfl

theorem reg_dest_of_VF_unused (hd : dest ≠ VF) (hflag : result (s.setReg VF flag) = result s) :
    (s.writeFlagAndDest flag dest result).reg dest = result s := by
  rw [writeFlagAndDest_of_VF_unused hd hflag, State.reg_setReg_ne _ _ hd, State.reg_setReg_self]

end WriteFlagAndDest

/-! ### 8XY5 and 8XY7 (R150, R152) -/

/-- 8XY7 is 8XY5 with the two fields exchanged. -/
theorem exec_subn (x y : RegIdx) (s : State) : exec (.subn x y) s = exec (.sub y x) s := rfl

/-- A difference of two registers other than VF is the same after a write of VF. -/
theorem sub_setReg_VF {x y : RegIdx} (hx : x ≠ VF) (hy : y ≠ VF) (s : State) (flag : Byte) :
    (s.setReg VF flag).reg x - (s.setReg VF flag).reg y = s.reg x - s.reg y := by
  rw [State.reg_setReg_ne s flag hx, State.reg_setReg_ne s flag hy]

section Sub

variable {s t : State} {x y : RegIdx}

theorem exec_sub_next : exec (.sub x y) s = .next t ↔
    (s.writeFlagAndDest (greaterFlag (s.reg x) (s.reg y)) x (fun u => u.reg x - u.reg y)).advance = t := by
  simp [exec, execSub]

theorem vf_of_sub (h : exec (.sub x y) s = .next t) (hx : x ≠ VF) : t.reg VF = greaterFlag (s.reg x) (s.reg y) := by
  obtain rfl := exec_sub_next.mp h
  exact reg_writeFlagAndDest_flag s _ _ hx

theorem vf_of_sub_flagLast (h : exec (.sub x y) s = .next t) (ho : s.params.vfOrder = .flagLast) :
    t.reg VF = greaterFlag (s.reg x) (s.reg y) := by
  obtain rfl := exec_sub_next.mp h
  exact reg_VF_of_flagLast ho

theorem dest_of_sub (h : exec (.sub x y) s = .next t) (hx : x ≠ VF) (hy : y ≠ VF) :
    t.reg x = s.reg x - s.reg y := by
  obtain rfl := exec_sub_next.mp h
  exact reg_dest_of_VF_unused hx (sub_setReg_VF hx hy s _)

theorem dest_of_sub_flagLast (h : exec (.sub x y) s = .next t) (hx : x ≠ VF) (ho : s.params.vfOrder = .flagLast) :
    t.reg x = s.reg x - s.reg y := by
  obtain rfl := exec_sub_next.mp h
  exact reg_dest_of_flagLast hx ho

/-- Flag first: the difference reads both registers after the flag write. -/
theorem dest_of_sub_asListed (h : exec (.sub x y) s = .next t) (ho : s.params.vfOrder = .asListed) :
    t.reg x = (s.setReg VF (greaterFlag (s.reg x) (s.reg y))).reg x -
      (s.setReg VF (greaterFlag (s.reg x) (s.reg y))).reg y := by
  obtain rfl := exec_sub_next.mp h
  exact reg_dest_of_asListed ho

/-- A register minus itself is 0, and it is not greater than itself, so the order does not matter. -/
theorem vf_of_sub_VF_VF (h : exec (.sub VF VF) s = .next t) : t.reg VF = 0 := by
  cases ho : s.params.vfOrder with
  | asListed => simpa using dest_of_sub_asListed h ho
  | flagLast => simpa [greaterFlag, flagByte] using vf_of_sub_flagLast h ho

end Sub

/-- Settles O34: one clause for each of the cases X and Y naming VF or not, by the rules of 8XY5 above. -/
theorem subCoversEveryVfCase : Obligations.SubCoversEveryVfCase := by
  rintro X Y s _ _ f rfl rfl hf
  have hexec : exec (.sub X.toFin Y.toFin) s = .next _ := exec_sub_next.mpr rfl
  have hflag : (greaterFlag (s.reg X.toFin) (s.reg Y.toFin)).toNat = f := (toNat_flagByte _).trans hf.symm
  refine ⟨decode_eq_ok_of_encode_eq rfl rfl, completes_of_exec hexec (by simp) ?_⟩
  simp only [← toFin_eq_VF, ne_eq]
  generalize X.toFin = x at *
  generalize Y.toFin = y at *
  refine ⟨fun hx hy => ⟨?_, ?_⟩, ?_, fun hx hy => ⟨?_, ?_, ?_⟩, ?_⟩
  · rw [dest_of_sub hexec hx hy, toNat_sub_byte]
  · rw [vf_of_sub hexec hx, hflag]
  · rintro rfl hy
    refine ⟨fun ho => ?_, fun ho => ?_⟩
    · rw [dest_of_sub_asListed hexec ho, toNat_sub_byte, State.reg_setReg_self, State.reg_setReg_ne _ _ hy, hflag]
    · rw [vf_of_sub_flagLast hexec ho, hflag]
  · intro ho
    subst hy
    rw [dest_of_sub_asListed hexec ho, toNat_sub_byte, State.reg_setReg_self, State.reg_setReg_ne _ _ hx, hflag]
  · intro ho
    rw [dest_of_sub_flagLast hexec hx ho, toNat_sub_byte]
  · rw [vf_of_sub hexec hx, hflag]
  · rintro rfl rfl
    rw [vf_of_sub_VF_VF hexec]
    rfl

/-- Settles O35: 8XY7 is 8XY5 with the two fields exchanged, so its table is that one, its middle cases exchanged. -/
theorem subnWritesVyAndCoversEveryVfCase : Obligations.SubnWritesVyAndCoversEveryVfCase := by
  intro X Y s vx vy f hvx hvy hf
  obtain ⟨-, t, hexec, hpc, ⟨neither, dest, operand, both⟩, hframe⟩ :=
    subCoversEveryVfCase Y X s vy vx f hvy hvx hf
  refine ⟨decode_eq_ok_of_encode_eq rfl rfl, t, (exec_subn _ _ s).trans hexec, hpc, ?_, hframe⟩
  exact ⟨fun hX hY => neither hY hX, fun hX hY => operand hY hX, fun hX hY => dest hY hX, fun hX hY => both hY hX⟩

/-! ### 8XY6 and 8XYE (R151, R153) -/

/-- Every case of a flag and an operation on V[X] itself, in numbers: `result` is the operation on V[X], `bit` the flag,
and `shifted` the operation on the flag, which it reads where X names VF and the flag is written first. -/
theorem completes_of_exec_shift {i : Instr} {s : State} {flag : Byte} {X : BitVec 4} {op : Byte → Byte}
    {result bit shifted : Nat}
    (h : exec i s = .next (s.writeFlagAndDest flag X.toFin fun u => op (u.reg X.toFin)).advance)
    (hresult : (op (s.reg X.toFin)).toNat = result) (hbit : flag.toNat = bit) (hshifted : (op flag).toNat = shifted) :
    Completes i s (s.pc + 2) (destRegs i) (destParts i) fun t =>
      (X ≠ 0xF#4 → (t.reg X.toFin).toNat = result ∧ (t.reg VF).toNat = bit) ∧
      (X = 0xF#4 →
        (s.params.vfOrder = .asListed → (t.reg VF).toNat = shifted) ∧
        (s.params.vfOrder = .flagLast → (t.reg VF).toNat = bit)) := by
  refine completes_of_exec h (by simp) ?_
  simp only [← toFin_eq_VF, ne_eq, State.reg_advance, ← hresult, ← hbit, ← hshifted]
  generalize X.toFin = x
  refine ⟨fun hx => ⟨?_, ?_⟩, ?_⟩
  · rw [reg_dest_of_VF_unused hx (congrArg op (State.reg_setReg_ne s flag hx))]
  · rw [reg_writeFlagAndDest_flag s flag _ hx]
  · rintro rfl
    refine ⟨fun ho => ?_, fun ho => ?_⟩
    · rw [reg_dest_of_asListed ho, State.reg_setReg_self]
    · rw [reg_VF_of_flagLast ho]

/-- Bit 0 of a byte, shifted right, is gone. -/
theorem toNat_lowBitFlag_shiftRight (b : Byte) : (lowBitFlag b >>> 1).toNat = 0 := by
  rw [toNat_shiftRight_one, toNat_lowBitFlag]
  omega

/-- Bit 7 of a byte, as a flag and shifted left, is bit 1. -/
theorem toNat_highBitFlag_shiftLeft (b : Byte) : (highBitFlag b <<< 1).toNat = 2 * (b.toNat / 128) := by
  have := b.isLt
  rw [toNat_shiftLeft_one, toNat_highBitFlag]
  omega

/-- Settles O36: both shifts are a flag and an operation on V[X]; Y is in the word alone. -/
theorem shiftsCoverEveryVfCase : Obligations.ShiftsCoverEveryVfCase := by
  rintro X Y s _ rfl
  exact ⟨decode_eq_ok_of_encode_eq rfl rfl,
    completes_of_exec_shift (op := fun b => b >>> 1) rfl (toNat_shiftRight_one _) (toNat_lowBitFlag _)
      (toNat_lowBitFlag_shiftRight _),
    decode_eq_ok_of_encode_eq rfl rfl,
    completes_of_exec_shift (op := fun b => b <<< 1) rfl (toNat_shiftLeft_one _) (toNat_highBitFlag _)
      (toNat_highBitFlag_shiftLeft _)⟩

/-! ### Where `P_VF_ORDER` is not read (R144) -/

/-- The state of a machine with another `P_VF_ORDER` and the same font. -/
def State.withVfOrder (s : State) (o : Config.VfOrder) : State := { s with params := { s.params with vfOrder := o } }

theorem withVfOrder_eq {s : State} {p : Config.Params} (h : p.font = s.params.font) :
    s.withVfOrder p.vfOrder = { s with params := p } := by
  simp only [State.withVfOrder, ← h]

/-- An outcome with another `P_VF_ORDER` in the next state. -/
def outcomeWithVfOrder (o : Config.VfOrder) : Result → Result
  | .next t => .next (t.withVfOrder o)
  | .fault f => .fault f
  | .refused r => .refused r

section WithVfOrder

variable (s : State) (o : Config.VfOrder)

@[simp] theorem reg_withVfOrder (r : RegIdx) : (s.withVfOrder o).reg r = s.reg r := rfl

@[simp] theorem pc_withVfOrder : (s.withVfOrder o).pc = s.pc := rfl

@[simp] theorem leastPressed_withVfOrder : (s.withVfOrder o).leastPressed = s.leastPressed := rfl

theorem push_withVfOrder (w : Word) : (s.withVfOrder o).push w = (s.push w).map (·.withVfOrder o) := by
  by_cases h : s.sp.val < 16 <;> simp [State.push, State.withVfOrder, h]

theorem pop_withVfOrder : (s.withVfOrder o).pop = s.pop.map (Prod.map id (·.withVfOrder o)) := by
  by_cases h : 0 < s.sp.val <;> simp [State.pop, State.withVfOrder, h]

theorem readBytes_withVfOrder (a n : Nat) : (s.withVfOrder o).readBytes a n = s.readBytes a n := by
  induction n generalizing a with
  | zero => rfl
  | succ n ih => exact congrArg (s.readByte a :: ·) (ih (a + 1))

theorem writeBytes_withVfOrder (a : Nat) (bytes : List Byte) :
    (s.withVfOrder o).writeBytes a bytes = (s.writeBytes a bytes).withVfOrder o := by
  induction bytes generalizing s a with
  | nil => rfl
  | cons b rest ih => exact ih (s.writeByte a b) (a + 1)

theorem foldl_setReg_withVfOrder (f : RegIdx → Byte) (rs : List RegIdx) :
    rs.foldl (fun t k => t.setReg k (f k)) (s.withVfOrder o) =
      (rs.foldl (fun t k => t.setReg k (f k)) s).withVfOrder o := by
  induction rs generalizing s with
  | nil => rfl
  | cons r rest ih => exact ih (s.setReg r (f r))

theorem drawSprite_withVfOrder (x y : RegIdx) (n : Nat) :
    (s.withVfOrder o).drawSprite x y n = s.drawSprite x y n :=
  congrArg (fun bytes => drawRows (s.spriteX x) (s.spriteY y) 0 bytes (s.fb, false))
    (readBytes_withVfOrder s o (s.indexAddr 0) n)

theorem checkedAccess_withVfOrder (i : Instr) (last : Nat) {t t' : State} (h : t' = t.withVfOrder o) :
    (s.withVfOrder o).checkedAccess i last t' = outcomeWithVfOrder o (s.checkedAccess i last t) := by
  subst h
  unfold State.checkedAccess
  split <;> rfl

/-- A flag and a destination other than VF, by an instruction whose result does not read VF. -/
theorem exec_writeFlagAndDest_withVfOrder {i : Instr} (flag : State → Byte) {dest : RegIdx} (result : State → Byte)
    (hexec : ∀ t, exec i t = .next (t.writeFlagAndDest (flag t) dest result).advance) (hd : dest ≠ VF)
    (hunused : ∀ (t : State) b, result (t.setReg VF b) = result t)
    (hflag : flag (s.withVfOrder o) = flag s) (hresult : result (s.withVfOrder o) = result s) :
    exec i (s.withVfOrder o) = outcomeWithVfOrder o (exec i s) := by
  rw [hexec, hexec, writeFlagAndDest_of_VF_unused hd (hunused _ _), writeFlagAndDest_of_VF_unused hd (hunused _ _),
    hflag, hresult]
  rfl

theorem exec_sub_withVfOrder {x y : RegIdx} (hx : x ≠ VF) (hy : y ≠ VF) :
    exec (.sub x y) (s.withVfOrder o) = outcomeWithVfOrder o (exec (.sub x y) s) :=
  exec_writeFlagAndDest_withVfOrder s o (fun t => greaterFlag (t.reg x) (t.reg y)) (fun t => t.reg x - t.reg y)
    (fun _ => rfl) hx (sub_setReg_VF hx hy) rfl rfl

end WithVfOrder

/-- An instruction whose fields do not name VF where the order could matter runs alike under both orders. -/
theorem exec_withVfOrder {i : Instr} (hi : ¬ namesVf i) (s : State) (o : Config.VfOrder) :
    exec i (s.withVfOrder o) = outcomeWithVfOrder o (exec i s) := by
  cases i with
  | sub x y =>
    obtain ⟨hx, hy⟩ := not_or.mp hi
    exact exec_sub_withVfOrder s o hx hy
  | subn x y =>
    obtain ⟨hx, hy⟩ := not_or.mp hi
    rw [exec_subn, exec_subn]
    exact exec_sub_withVfOrder s o hy hx
  | shr x y =>
    exact exec_writeFlagAndDest_withVfOrder s o (fun t => lowBitFlag (t.reg x)) (fun t => t.reg x >>> 1)
      (fun _ => rfl) hi (fun t b => by rw [State.reg_setReg_ne t b hi]) rfl rfl
  | shl x y =>
    exact exec_writeFlagAndDest_withVfOrder s o (fun t => highBitFlag (t.reg x)) (fun t => t.reg x <<< 1)
      (fun _ => rfl) hi (fun t b => by rw [State.reg_setReg_ne t b hi]) rfl rfl
  | ret =>
    simp only [exec, execRet, pop_withVfOrder]
    cases s.pop <;> rfl
  | call nnn =>
    simp only [exec, execCall, pc_withVfOrder, push_withVfOrder]
    cases s.push s.pc <;> rfl
  | skp x | sknp x =>
    by_cases hkey : (s.reg x).toNat < 16 <;>
      simp only [exec, execSkp, execSknp, reg_withVfOrder, hkey, ↓reduceDIte] <;> rfl
  | ldVxKey x =>
    simp only [exec, execLdVxKey, leastPressed_withVfOrder]
    cases s.leastPressed <;> rfl
  | drw x y n =>
    refine checkedAccess_withVfOrder s o _ _ ?_
    rw [drawSprite_withVfOrder]
    rfl
  | ldBcd x | storeRegs x =>
    refine checkedAccess_withVfOrder s o _ _ ?_
    rw [writeBytes_withVfOrder]
    rfl
  | loadRegs x =>
    refine checkedAccess_withVfOrder s o _ _ ?_
    rw [foldl_setReg_withVfOrder]
    rfl
  | cls | jp nnn | seImm x nn | sneImm x nn | seReg x y | ldImm x nn | addImm x nn | ldReg x y | orReg x y
  | andReg x y | xorReg x y | addReg x y | sneReg x y | ldI nnn | jpV0 nnn | rnd x nn | ldVxDt x | ldDtVx x
  | ldStVx x | addI x | ldFont x => rfl

/-- Settles O37: the two outcomes are the same but for the parameter itself, which no instruction writes. -/
theorem vfOrderMattersOnlyWhereAFieldNamesVf : Obligations.VfOrderMattersOnlyWhereAFieldNamesVf := by
  intro i s p hi hfont
  have hexec := exec_withVfOrder hi s p.vfOrder
  rw [withVfOrder_eq hfont] at hexec
  refine ⟨fun t ht => ?_, fun f hf => ?_⟩
  · have hfont' : p.font = t.params.font := by rw [(exec_dataFrame ht).params, hfont]
    rw [hexec, ht, ← withVfOrder_eq hfont']
    rfl
  · rw [hexec, hf]
    rfl

end Sys2Proof.Machine
end

section
/-!
PROOFS of the statements about the index register and the memory (spec/44_index_memory.md). First the loads of `I` and
the addition to it; then FX65 after FX55.
-/

namespace Sys2Proof.Machine

open Sys2Proof.Claims

/-! ### Writes of `I` (R170 to R172) -/

/-- The address of a glyph is exact for every byte: even 0x050 + 255 * 5 fits 16 bits (R172). -/
theorem toNat_glyphAddr (b : Byte) : (glyphAddr b).toNat = 0x050 + b.toNat * 5 := by
  have hfits : 0x050 + b.toNat * 5 < 65536 := by omega
  exact (BitVec.toNat_ofNat _ _).trans (Nat.mod_eq_of_lt hfits)

/-- The sum with a byte is one modulo 65536 (decision D19). -/
theorem toNat_add_byte (w : Word) (b : Byte) : (w + b.setWidth 16).toNat = (w.toNat + b.toNat) % 65536 := by
  rw [BitVec.toNat_add, BitVec.toNat_setWidth_of_le (by decide)]

/-- Settles O39: each writes `I` alone, and neither value is cut off by the 16 bits of `I`. -/
theorem indexLoads : Obligations.IndexLoads :=
  fun NNN _ _ => ⟨decode_eq_ok_of_encode_eq (addrFits_setWidth NNN) (formNNN_setWidth _ NNN),
    completes_of_exec rfl rfl (BitVec.toNat_setWidth_of_le (by decide)),
    decode_eq_ok_of_encode_eq rfl rfl, completes_of_exec rfl rfl (toNat_glyphAddr _)⟩

/-- Settles O40: it writes `I` alone, with a sum of 16 bits. -/
theorem addToIndexWrapsAtSixteenBits : Obligations.AddToIndexWrapsAtSixteenBits :=
  fun _ _ => ⟨decode_eq_ok_of_encode_eq rfl rfl, completes_of_exec rfl rfl (toNat_add_byte _ _)⟩

/-! ### FX65 after FX55 (R174, R175) -/

/-- FX55 leaves `I`, so the next access is at the same addresses (decision D18). -/
theorem indexAddr_of_storeRegs {x : RegIdx} {s t : State} (h : exec (.storeRegs x) s = .next t) (k : Nat) :
    t.indexAddr k = s.indexAddr k := by
  obtain ⟨-, rfl⟩ := exec_storeRegs_next.mp h
  simp [State.indexAddr]

/-- Settles O44: the addresses fitted for FX55, and at each of them stands the register FX55 stored there. -/
theorem loadAfterStoreRestoresRegisters : Obligations.LoadAfterStoreRestoresRegisters := by
  intro x s t v hstore
  have haddr := indexAddr_of_storeRegs hstore
  obtain ⟨hfit, -⟩ := exec_storeRegs_next.mp hstore
  have hload : exec (.loadRegs x) { t with v := v } = .next _ :=
    exec_loadRegs_next.mpr ⟨(haddr x.val).le.trans hfit, rfl⟩
  refine ⟨_, hload, fun k hk => ?_, fun k hk => ?_⟩
  · calc _ = t.readByte (t.indexAddr k.val) := (reg_of_loadRegs hload k).trans (if_pos hk)
      _ = t.readByte (s.indexAddr k.val) := by rw [haddr]
      _ = s.reg k := readByte_of_storeRegs hstore hk
  · exact (reg_of_loadRegs hload k).trans (if_neg (Nat.not_le_of_gt hk))

end Sys2Proof.Machine
end

section
/-!
PROOFS of the statements about keys and timers (spec/45_keys_timers.md). First the skips on a key; then the moves
between a register and a timer; last FX0A with a key pressed.
-/

namespace Sys2Proof.Machine

open Sys2Proof.Claims

/-! ### Skips on a key (R190, R191) -/

theorem exec_skp_fault {x : RegIdx} {s : State} {f : Fault} :
    exec (.skp x) s = .fault f ↔
      (s.reg x).toNat > 15 ∧ .keyIndexOutOfBounds s.pc (encode (.skp x)) (s.reg x) = f := by
  simp only [exec, execSkp]
  split
  next h => simp [Nat.le_of_lt_succ h]
  next h => simp [raise, Nat.lt_of_succ_le (Nat.le_of_not_lt h)]

theorem exec_sknp_fault {x : RegIdx} {s : State} {f : Fault} :
    exec (.sknp x) s = .fault f ↔
      (s.reg x).toNat > 15 ∧ .keyIndexOutOfBounds s.pc (encode (.sknp x)) (s.reg x) = f := by
  simp only [exec, execSknp]
  split
  next h => simp [Nat.le_of_lt_succ h]
  next h => simp [raise, Nat.lt_of_succ_le (Nat.le_of_not_lt h)]

/-- Settles O46: up to 15 both instructions are a skip, on the key's flag and on its negation, and above 15 the guard of
both fails (decision D9). -/
theorem keySkipsTestTheKeyOrFault : Obligations.KeySkipsTestTheKeyOrFault := by
  intro X s
  refine ⟨decode_eq_ok_of_encode_eq rfl rfl, decode_eq_ok_of_encode_eq rfl rfl, fun b hle hkey => ?_, fun hgt =>
    ⟨exec_skp_fault.mpr ⟨hgt, rfl⟩, exec_sknp_fault.mpr ⟨hgt, rfl⟩⟩⟩
  have hlt : (s.reg X.toFin).toNat < 16 := Nat.lt_succ_of_le hle
  have hpressed : s.pressed ⟨_, hlt⟩ = b := (pressed_eq_iff hlt).mpr hkey
  exact ⟨completes_of_exec_skipIf (exec_skp_next.mpr ⟨hlt, rfl⟩) (by rw [hpressed]),
    completes_of_exec_skipIf (exec_sknp_next.mpr ⟨hlt, rfl⟩) (by rw [hpressed, Bool.not_eq_true'])⟩

/-! ### Moves between a register and a timer (R192, R194, R195) -/

/-- Settles O47: each writes one register or one timer, and reads the other. -/
theorem timerRegisterMoves : Obligations.TimerRegisterMoves :=
  fun _ s => ⟨decode_eq_ok_of_encode_eq rfl rfl, completes_of_exec rfl rfl (s.reg_setReg_self _ _),
    decode_eq_ok_of_encode_eq rfl rfl, completes_of_exec rfl rfl rfl,
    decode_eq_ok_of_encode_eq rfl rfl, completes_of_exec rfl rfl rfl⟩

/-! ### FX0A with a key pressed (R193) -/

theorem lt_length_allKeys (k : KeyIdx) : k.val < allKeys.length := k.isLt

theorem val_getElem_allKeys : ∀ n, (hn : n < allKeys.length) → allKeys[n].val = n := by decide

/-- The keys stand in the list in their own order, so the first one found is the least (decision D10). -/
theorem leastPressed_eq_some {s : State} {k : KeyIdx} (hk : s.key[k.val] = true)
    (hlower : ∀ j : KeyIdx, j.val < k.val → s.key[j.val] = false) : s.leastPressed = some k := by
  refine List.find?_eq_some_iff_getElem.mpr
    ⟨hk, k.val, lt_length_allKeys k, Fin.ext (val_getElem_allKeys _ _), fun j hj => ?_⟩
  have hlt : j < allKeys.length := hj.trans (lt_length_allKeys k)
  have hnot : s.pressed allKeys[j] = false := hlower _ (by rwa [val_getElem_allKeys])
  exact congrArg not hnot

theorem toNat_keyByte (k : KeyIdx) : (BitVec.ofNat 8 k.val).toNat = k.val :=
  (BitVec.toNat_ofNat _ _).trans (Nat.mod_eq_of_lt (by omega))

/-- Settles O48: the key that FX0A finds is the least one pressed, and its number fits a byte. -/
theorem keyWaitTakesTheLeastPressedKey : Obligations.KeyWaitTakesTheLeastPressedKey := by
  refine fun X s k => ⟨decode_eq_ok_of_encode_eq rfl rfl, fun hk hlower => ?_⟩
  have hexec : exec (.ldVxKey X.toFin) s = .next _ :=
    exec_ldVxKey_next.mpr (.inr ⟨k, leastPressed_eq_some hk hlower, rfl⟩)
  refine completes_of_exec hexec rfl ?_
  rw [State.reg_advance, State.reg_setReg_self, toNat_keyByte]

end Sys2Proof.Machine
end

section
/-!
PROOFS of the statements about faults and the host's operations (spec/60_exceptions.md). First everything that can fault
a step; then a faulting operation in a run, and how the fault of a step repeats; then the fault record of a step; last
the tick, the key write and the draw flag.
-/

namespace Sys2Proof.Machine

/-! ### The check that fails (R94, R210) -/

/-- The instruction's own check fails, with its fault: the whole list of R94. -/
inductive CheckFails (s : State) : Instr → Fault → Prop where
  | ret (h : s.sp.val = 0) : CheckFails s .ret (.stackUnderflow s.pc (encode .ret))
  | call {nnn : Word} (h : s.sp.val = 16) : CheckFails s (.call nnn) (.stackOverflow s.pc (encode (.call nnn)))
  | drw {x y : RegIdx} {n : Nat} (h : s.lastSpriteAddr n > 0xFFF) :
      CheckFails s (.drw x y n) (.memoryOutOfBounds s.pc (encode (.drw x y n)) (s.lastSpriteAddr n))
  | ldBcd {x : RegIdx} (h : s.indexAddr 2 > 0xFFF) :
      CheckFails s (.ldBcd x) (.memoryOutOfBounds s.pc (encode (.ldBcd x)) (s.indexAddr 2))
  | storeRegs {x : RegIdx} (h : s.indexAddr x.val > 0xFFF) :
      CheckFails s (.storeRegs x) (.memoryOutOfBounds s.pc (encode (.storeRegs x)) (s.indexAddr x.val))
  | loadRegs {x : RegIdx} (h : s.indexAddr x.val > 0xFFF) :
      CheckFails s (.loadRegs x) (.memoryOutOfBounds s.pc (encode (.loadRegs x)) (s.indexAddr x.val))
  | skp {x : RegIdx} (h : (s.reg x).toNat > 15) :
      CheckFails s (.skp x) (.keyIndexOutOfBounds s.pc (encode (.skp x)) (s.reg x))
  | sknp {x : RegIdx} (h : (s.reg x).toNat > 15) :
      CheckFails s (.sknp x) (.keyIndexOutOfBounds s.pc (encode (.sknp x)) (s.reg x))

/-- An instruction that faults has failed its check. -/
theorem checkFails_of_exec_fault {i : Instr} {s : State} {f : Fault} (h : exec i s = .fault f) : CheckFails s i f := by
  cases i with
  | ret =>
    obtain ⟨hempty, rfl⟩ := exec_ret_fault.mp h
    exact .ret hempty
  | call nnn =>
    obtain ⟨hfull, rfl⟩ := exec_call_fault.mp h
    exact .call hfull
  | skp x =>
    obtain ⟨hkey, rfl⟩ := exec_skp_fault.mp h
    exact .skp hkey
  | sknp x =>
    obtain ⟨hkey, rfl⟩ := exec_sknp_fault.mp h
    exact .sknp hkey
  | drw x y n | ldBcd x | storeRegs x | loadRegs x =>
    obtain ⟨hlast, rfl⟩ := checkedAccess_fault.mp h
    constructor
    exact hlast
  | ldVxKey x =>
    obtain ⟨t, ht⟩ := exec_ldVxKey_completes x s
    cases ht.symm.trans h
  | cls | jp nnn | seImm x nn | sneImm x nn | seReg x y | sneReg x y | ldImm x nn | addImm x nn | ldReg x y
  | orReg x y | andReg x y | xorReg x y | addReg x y | sub x y | shr x y | subn x y | shl x y | ldI nnn | jpV0 nnn
  | rnd x nn | ldVxDt x | ldDtVx x | ldStVx x | addI x | ldFont x => cases h

/-- An instruction whose check fails answers the fault of the check. -/
theorem CheckFails.exec_fault {i : Instr} {s : State} {f : Fault} (h : CheckFails s i f) : exec i s = .fault f := by
  cases h with
  | ret hempty => exact exec_ret_fault.mpr ⟨hempty, rfl⟩
  | call hfull => exact exec_call_fault.mpr ⟨hfull, rfl⟩
  | skp hkey => exact exec_skp_fault.mpr ⟨hkey, rfl⟩
  | sknp hkey => exact exec_sknp_fault.mpr ⟨hkey, rfl⟩
  | drw hlast | ldBcd hlast | storeRegs hlast | loadRegs hlast => exact checkedAccess_fault.mpr ⟨hlast, rfl⟩

/-- The step from `s` faults: the `pc` is out of bounds, or the word at it does not decode, or the check of its
instruction fails (R91, R93, R94). -/
inductive StepFails (s : State) : Fault → Prop where
  | pcOut (hpc : s.pc.toNat > 0xFFE) : StepFails s (.programCounterOutOfBounds s.pc)
  | noDecode {e : DecodeError} (hpc : s.pc.toNat ≤ 0xFFE) (hd : decode s.opcodeAtPc = .error e) :
      StepFails s (decodeFault s.pc s.opcodeAtPc e)
  | failedCheck {i : Instr} {f : Fault} (hpc : s.pc.toNat ≤ 0xFFE) (hd : decode s.opcodeAtPc = .ok i)
      (hcheck : CheckFails s i f) : StepFails s f

theorem step_eq_fault {s : State} {f : Fault} : step s = .fault f ↔ StepFails s f := by
  constructor
  · intro h
    rcases fetchDecode_cases s with ⟨hpc, -⟩ | ⟨hpc, ⟨i, hd, -⟩ | ⟨e, hd, -⟩⟩
    · cases (step_of_pc_out hpc).symm.trans h
      exact .pcOut hpc
    · rw [step_of_decode_ok hpc hd] at h
      exact .failedCheck hpc hd (checkFails_of_exec_fault h)
    · cases (step_of_decode_error hpc hd).symm.trans h
      exact .noDecode hpc hd
  · rintro (hpc | ⟨hpc, hd⟩ | ⟨hpc, hd, hcheck⟩)
    · exact step_of_pc_out hpc
    · exact step_of_decode_error hpc hd
    · rw [step_of_decode_ok hpc hd, hcheck.exec_fault]

/-! ### A faulting operation in a run (R212, R213) -/

/-- A host operation that faults leaves the run as it was, but for the mark. -/
theorem Session.perform_of_fault {op : HostOp} {m : Session} {f : Fault} (h : Machine.perform op m.state = .fault f) :
    m.perform op = { m with mark := keepFirst m.mark f } := by
  simp [Session.perform, h]

theorem keepFirst_ne_none (mark : Option Fault) (f : Fault) : keepFirst mark f ≠ none := by
  cases mark <;> simp [keepFirst]

/-- Settles O17: the fault changes the mark alone, and what it leaves there is a fault. -/
theorem faultingOperationChangesNoState : Obligations.FaultingOperationChangesNoState := by
  intro op m f h
  rw [Session.perform_of_fault h]
  exact ⟨rfl, keepFirst_ne_none m.mark f⟩

/-! ### The fault repeats until a reset or a load (R213) -/

/-- The state with other values in all that the host writes, reset and load apart: timers, keys and draw flag (R225). -/
def State.withHostWrites (s : State) (dt st : Byte) (key : Vector Bool 16) (draw : Bool) : State :=
  { s with dt := dt, st := st, key := key, draw := draw }

section WithHostWrites

variable {s : State} {f : Fault} (dt st : Byte) (key : Vector Bool 16) (draw : Bool)

/-- No check reads what the host writes: EX9E and EXA1 check the number of the key, not the key. -/
theorem CheckFails.withHostWrites {i : Instr} (h : CheckFails s i f) :
    CheckFails (s.withHostWrites dt st key draw) i f := by
  cases h with
  | ret hcheck | call hcheck | drw hcheck | ldBcd hcheck | storeRegs hcheck | loadRegs hcheck | skp hcheck
  | sknp hcheck =>
    constructor
    exact hcheck

/-- Nor do the fetch and the decoder, so a step that faults does so whatever the host writes. -/
theorem step_withHostWrites (h : step s = .fault f) : step (s.withHostWrites dt st key draw) = .fault f := by
  refine step_eq_fault.mpr ?_
  cases step_eq_fault.mp h with
  | pcOut hpc => exact .pcOut hpc
  | noDecode hpc hd => exact .noDecode hpc hd
  | failedCheck hpc hd hcheck => exact .failedCheck hpc hd (hcheck.withHostWrites dt st key draw)

end WithHostWrites

/-- One host operation that starts no run keeps the fault of the next step and the first fault of the run. -/
theorem Session.perform_keeps_fault {op : HostOp} {s : State} {f : Fault} (g : Fault) (h : step s = .fault f)
    (hop : op.startsRun = false) :
    ∃ t, Session.perform op ⟨s, some g⟩ = ⟨t, some g⟩ ∧ step t = .fault f := by
  cases op with
  | reset | load bytes => cases hop
  | step => exact ⟨s, Session.perform_of_fault h, h⟩
  | tick => exact ⟨s.tick, rfl, step_withHostWrites _ _ s.key s.draw h⟩
  | writeKeys keys => exact ⟨s.writeKeys keys, rfl, step_withHostWrites s.dt s.st keys s.draw h⟩
  | clearDraw => exact ⟨s.clearDraw, rfl, step_withHostWrites s.dt s.st s.key false h⟩
  | readDraw | readFb | readDt | readSt => exact ⟨s, rfl, h⟩

/-- Settles O18, by induction on the operations. -/
theorem faultRepeatsUntilResetOrLoad : Obligations.FaultRepeatsUntilResetOrLoad := by
  intro s f g ops h hops
  induction ops generalizing s with
  | nil => exact ⟨h, rfl⟩
  | cons op rest ih =>
    obtain ⟨hop, hrest⟩ := List.forall_mem_cons.mp hops
    obtain ⟨t, hperform, ht⟩ := Session.perform_keeps_fault g h hop
    rw [Session.performAll, hperform]
    exact ih t ht hrest

/-! ### The fault record of a step (R210, R211) -/

/-- The fault records the `pc` and a fetched word, and is none of the two kinds without one, 1 and 8. -/
structure RecordsWord (pc opcode : Word) (f : Fault) : Prop where
  recordPc      : f.recordPc = some pc
  recordOpcode  : f.recordOpcode = some opcode
  code_ne_one   : f.code ≠ 1
  code_ne_eight : f.code ≠ 8

theorem recordsWord_decodeFault (pc opcode : Word) (e : DecodeError) :
    RecordsWord pc opcode (decodeFault pc opcode e) := by
  cases e with
  | unknownOpcode | malformedOperand => exact ⟨rfl, rfl, nofun, nofun⟩

theorem CheckFails.recordsWord {s : State} {i : Instr} {f : Fault} (h : CheckFails s i f) :
    RecordsWord s.pc (encode i) f := by
  cases h with
  | ret | call | drw | ldBcd | storeRegs | loadRegs | skp | sknp => exact ⟨rfl, rfl, nofun, nofun⟩

/-- A step that fetches records the word it fetched: that of an instruction is the instruction's encoding. -/
theorem StepFails.recordsWord {s : State} {f : Fault} (h : StepFails s f) (hpc : s.pc.toNat ≤ 0xFFE) :
    RecordsWord s.pc s.opcodeAtPc f := by
  cases h with
  | pcOut hout => omega
  | noDecode _ hd => exact recordsWord_decodeFault _ _ _
  | failedCheck _ hd hcheck => exact encode_of_decode hd ▸ hcheck.recordsWord

/-- Settles O9: a `pc` out of bounds is a fault of its own kind, and every other step that faults records its word. -/
theorem stepFaultRecordNamesPcAndOpcode : Obligations.StepFaultRecordNamesPcAndOpcode := by
  intro s f h
  by_cases hpc : s.pc.toNat > 0xFFE
  · cases (step_of_pc_out hpc).symm.trans h
    exact ⟨rfl, (if_pos hpc).symm, iff_of_true rfl hpc, nofun⟩
  · obtain ⟨hrecordPc, hrecordOpcode, hne1, hne8⟩ := (step_eq_fault.mp h).recordsWord (Nat.le_of_not_gt hpc)
    exact ⟨hrecordPc, hrecordOpcode.trans (if_neg hpc).symm, iff_of_false hne1 hpc, hne8⟩

/-! ### The tick, the key write and the draw flag (R222, R228, R229) -/

/-- A timer loses 1 and stays 0 at 0, as the subtraction of numbers does. -/
theorem toNat_tickTimer (t : Byte) : (tickTimer t).toNat = t.toNat - 1 := by
  unfold tickTimer
  split
  next h => simp [h]
  next h => bv_omega

theorem dataFrame_tick (s : State) : DataFrame [] [.dt, .st] s s.tick :=
  ((DataFrame.refl [] [.dt, .st] s).setDt (by decide) (tickTimer s.dt)).setSt (by decide) (tickTimer s.st)

/-- Settles O50: a tick writes the two timers and nothing else. -/
theorem tickDecrementsNonzeroTimers : Obligations.TickDecrementsNonzeroTimers :=
  fun s => ⟨s.tick, rfl, toNat_tickTimer s.dt, toNat_tickTimer s.st, rfl, (dataFrame_tick s).frameOf⟩

theorem dataFrame_writeKeys (s : State) (keys : Vector Bool 16) : DataFrame [] [.key] s (s.writeKeys keys) :=
  { DataFrame.refl [] [.key] s with reg := fun _ _ => rfl, key := fun hn => absurd (List.mem_singleton_self _) hn }

theorem dataFrame_clearDraw (s : State) : DataFrame [] [.draw] s s.clearDraw :=
  { DataFrame.refl [] [.draw] s with reg := fun _ _ => rfl, draw := fun hn => absurd (List.mem_singleton_self _) hn }

/-- Settles O51: each write has its own frame, and a read performs nothing. -/
theorem keyWriteAndDrawFlagHandshake : Obligations.KeyWriteAndDrawFlagHandshake :=
  fun s keys => ⟨⟨s.writeKeys keys, rfl, rfl, rfl, (dataFrame_writeKeys s keys).frameOf⟩,
    ⟨s.clearDraw, rfl, rfl, rfl, (dataFrame_clearDraw s).frameOf⟩, rfl, rfl⟩

end Sys2Proof.Machine
end

section
/-!
PROOFS of the statements about reset and load (spec/70_reset_and_hazards.md). First the bytes and the values reset
leaves; then what a load copies and when it faults; last the step that follows a load.
-/

namespace Sys2Proof.Machine

/-! ### Reset (R240, R242) -/

/-- Settles O13: the invariant holds for all parameters and draw counters, so for the defaults too. -/
theorem resetMeetsTheInvariant : Obligations.ResetMeetsTheInvariant :=
  ⟨inv_resetWith defaultParams 0, inv_resetWith⟩

theorem Memory.base_font (font : Config.Font) {j : Nat} (hj : j < 80) : Memory.base font (0x050 + j) = font[j] := by
  simp [Memory.base, hj]

theorem Memory.base_outside_font (font : Config.Font) {a : Nat} (ha : a < 0x050 ∨ 0x0A0 ≤ a) :
    Memory.base font a = 0 :=
  dif_neg (by simp only [Config.fontBase, Config.fontSize]; omega)

/-- Reset lists no byte, so every byte reads as the reset contents. -/
theorem readByte_resetOp (s : State) (a : Nat) : s.resetOp.readByte a = Memory.base s.params.font a := rfl

/-- Reset keeps all that it reads of a state, the parameters and the draw counter, so a second one finds them again. -/
theorem resetOp_resetOp (s : State) : s.resetOp.resetOp = s.resetOp := rfl

/-- Settles O53: each value is one of `State.resetWith`, and the bytes are the reset contents. -/
theorem resetLeavesTheListedValues : Obligations.ResetLeavesTheListedValues := by
  intro s
  refine ⟨s.resetOp, rfl, congrArg Host.Outcome.next (resetOp_resetOp s), State.reg_resetWith _ _,
    fun _ => Vector.getElem_replicate _, fun _ => BitVec.getLsbD_zero, fun _ => Vector.getElem_replicate _,
    rfl, rfl, rfl, rfl, rfl, rfl, fun j hj => ?_, fun a ha => ?_, rfl, rfl⟩
  · rw [readByte_resetOp, Memory.base_font _ hj, Vector.getElem?_eq_getElem hj]
  · rw [readByte_resetOp, Memory.base_outside_font _ ha]

/-! ### Load (R243, R244) -/

/-- A load faults exactly with a program that does not fit, and names its length (R244). -/
theorem load_eq_fault {s : State} {f : Fault} {bytes : List Byte} :
    s.load bytes = .fault f ↔ bytes.length > 3584 ∧ .loadTooLarge bytes.length = f := by
  unfold State.load
  split
  next h => simp [of_decide_eq_true h]
  next h =>
    have hlong : bytes.length > 3584 := Nat.lt_of_not_le fun hle => h (decide_eq_true hle)
    simp [hlong, raise]

theorem pc_of_load {s t : State} {bytes : List Byte} (h : s.load bytes = .next t) : t.pc = 0x200#16 := by
  obtain ⟨_, rfl⟩ := load_eq_next.mp h
  exact writeBytes_pc _ _ _

/-- The program stands from 0x200 on after a load, byte for byte (R243). -/
theorem readByte_of_load {s t : State} {bytes : List Byte} (h : s.load bytes = .next t) {j : Nat}
    (hj : j < bytes.length) : t.readByte (0x200 + j) = bytes[j] := by
  obtain ⟨_, rfl⟩ := load_eq_next.mp h
  exact readByte_writeBytes_inside s.resetOp 0x200 bytes (by omega) hj

/-- Settles O54: the load is a copy onto the reset state, so the other bytes and the frame are those of the copy. -/
theorem loadCopiesTheProgramOrFaults : Obligations.LoadCopiesTheProgramOrFaults := by
  intro s b
  refine ⟨fun hfit => ?_, fun hlong => load_eq_fault.mpr ⟨hlong, rfl⟩⟩
  have hload : s.load b = .next (s.resetOp.writeBytes 0x200 b) := load_eq_next.mpr ⟨hfit, rfl⟩
  have hframe := (DataFrame.refl [] [.mem] s.resetOp).writeBytes (List.mem_singleton_self _) 0x200 b
  refine ⟨s.resetOp, _, rfl, hload, fun j hj => ?_, fun _ => readByte_writeBytes_outside s.resetOp 0x200 b,
    pc_of_load hload, hframe.frameOf⟩
  rw [readByte_of_load hload hj, List.getElem?_eq_getElem hj]

/-! ### The first step after a load (R245) -/

/-- The first two bytes of the program stand where the `pc` of reset points, the first one the high byte (R53). -/
theorem opcodeAtPc_of_load {s t : State} {b0 b1 : Byte} {rest : List Byte} (h : s.load (b0 :: b1 :: rest) = .next t) :
    t.opcodeAtPc = b0 ++ b1 := by
  have hhigh : t.readByte 0x200 = b0 := readByte_of_load h (Nat.zero_lt_succ _)
  have hlow : t.readByte 0x201 = b1 := readByte_of_load h (j := 1) (by simp)
  simp [State.opcodeAtPc, pc_of_load h, hhigh, hlow, opcodeOfBytes]

/-- Settles O55: the word at the `pc` after the load is the program's first two bytes, and the step follows its
decoding. -/
theorem loadedProgramRunsFromItsFirstBytes : Obligations.LoadedProgramRunsFromItsFirstBytes := by
  intro s b0 b1 rest i hrest hdecode
  obtain ⟨t, hload⟩ : ∃ t, s.load (b0 :: b1 :: rest) = .next t :=
    ⟨_, load_eq_next.mpr ⟨Nat.add_le_add_right hrest 2, rfl⟩⟩
  refine ⟨t, hload, step_of_decode_ok ?_ ?_⟩
  · rw [pc_of_load hload]
    decide
  · rw [opcodeAtPc_of_load hload, hdecode]

end Sys2Proof.Machine
end
